-- ==== Sys2Proof/Word.lean ====
section
/-! DEFINITION. The two data widths of the block: the byte, the unit of every access (spec R77), and the
16-bit half word of wValue, wIndex, wLength, the delays and the counters (spec R10, R107). -/

namespace Sys2Proof

/-- A byte: 8 bits, bit 0 the least significant (R10). -/
abbrev Byte := BitVec 8

/-- A 16-bit value: a SETUP field, a CRC16, a delay, a counter (R10, R107). -/
abbrev Half := BitVec 16

end Sys2Proof
end

