-- ==== Sys2Proof/Syntax.lean ====
section
/-! DEFINITION. The instructions of the block: one constructor per row of spec/opcode_table.json (47 rows),
in the table's order. The block has no instruction-set architecture (R2); its instructions are the inputs
of its four vocabularies (R131): USB packets by PID, control requests by SETUP payload, commands of the I2C
sequencer's port and commands of the calibrator's port. -/

namespace Sys2Proof

/-- The part of a SETUP payload that no request's opcode fixes (R107): bit 7 and bits [4:0] of
bmRequestType (R201: carried, never decoded) and the three little-endian operand fields. -/
structure Setup where
  dir       : Bool
  recipient : BitVec 5
  wValue    : Half
  wIndex    : Half
  wLength   : Half
  deriving DecidableEq, Repr

/-- The instructions. A token carries its address, endpoint and CRC5 fields, a data packet its payload and
CRC16 (R102); a request its SETUP fields and, where the row leaves it open, its bRequest (R108, R109); a
sequencer command its 8 data bits (R118). -/
inductive Instr where
  -- USB packets, by the PID of a transaction's first packet (R103, R143)
  | outToken   (addr : BitVec 7) (endp : BitVec 4) (crc : BitVec 5)
  | inToken    (addr : BitVec 7) (endp : BitVec 4) (crc : BitVec 5)
  | sof        (frame : BitVec 11) (crc : BitVec 5)
  | setupToken (addr : BitVec 7) (endp : BitVec 4) (crc : BitVec 5)
  | data0      (payload : List Byte) (crc : Half)
  | data1      (payload : List Byte) (crc : Half)
  | ack
  | nak
  | stall
  | pre
  -- standard requests, bmRequestType[6:5] = 0 (R108)
  | stdGetStatus        (r : Setup)
  | stdClearFeature     (r : Setup)
  | stdSetFeature       (r : Setup)
  | stdSetAddress       (r : Setup)
  | stdGetDescriptor    (r : Setup)
  | stdSetDescriptor    (r : Setup)
  | stdGetConfiguration (r : Setup)
  | stdSetConfiguration (r : Setup)
  | stdGetInterface     (r : Setup)
  | stdSetInterface     (r : Setup)
  | stdSynchFrame       (r : Setup)
  | stdOther            (req : Byte) (r : Setup)
  -- vendor requests, bmRequestType[6:5] = 2 (R109)
  | vendorEcho      (r : Setup)
  | vendorGetFunc   (r : Setup)
  | vendorSetDelay  (r : Setup)
  | vendorGetStatus (r : Setup)
  | vendorI2cIo     (beginFlag endFlag : Bool) (r : Setup)
  | vendorUnknown   (req : Byte) (r : Setup)
  -- class requests, bmRequestType[6:5] = 1, decoded as vendor ones (R200, R230)
  | classEcho      (r : Setup)
  | classGetFunc   (r : Setup)
  | classSetDelay  (r : Setup)
  | classGetStatus (r : Setup)
  | classI2cIo     (beginFlag endFlag : Bool) (r : Setup)
  | classUnknown   (req : Byte) (r : Setup)
  -- the reserved request type, bmRequestType[6:5] = 3 (R202)
  | reservedType   (req : Byte) (r : Setup)
  -- the I2C sequencer's port, 11 bits (R118)
  | i2cReserved0 (data : Byte)
  | i2cStart     (data : Byte)
  | i2cRstart    (data : Byte)
  | i2cStop      (data : Byte)
  | i2cWrite     (data : Byte)
  | i2cReadAck   (data : Byte)
  | i2cReadNak   (data : Byte)
  | i2cReserved7 (data : Byte)
  -- the calibrator's port, 2 bits (R119)
  | calReserved0
  | calRun
  | calLoad
  | calReserved3
  deriving DecidableEq, Repr

end Sys2Proof
end

