-- ==== Sys2Proof/WellFormed.lean ====
section
/-! DEFINITION. Which terms of Instr are instructions of the block: the checks that the types of the operands
do not make already. -/

namespace Sys2Proof

/-- A data packet carries 0 to 8 payload bytes (R102). -/
def payloadFits (p : List Byte) : Bool := p.length ≤ 8

/-- The standard request codes that have a row of their own (R108). -/
def namedStandardCodes : List Byte := [0x00, 0x01, 0x03, 0x05, 0x06, 0x07, 0x08, 0x09, 0x0A, 0x0B, 0x0C]

/-- STD_OTHER stands for the codes that have no row of their own (R125, R210). -/
def unnamedStandardCode (req : Byte) : Bool := !namedStandardCodes.contains req

/-- VENDOR_UNKNOWN and CLASS_UNKNOWN stand for bRequest 8 to 255 (R124). -/
def unknownVendorCode (req : Byte) : Bool := 8 ≤ req.toNat

/-- The data bits of a sequencer command are used by WRITE only and are 0 otherwise (R118). -/
def noData (data : Byte) : Bool := data == 0

/-- The well-formed instructions. -/
def Instr.wellFormed : Instr → Bool
  | .outToken _ _ _ => true
  | .inToken _ _ _ => true
  | .sof _ _ => true
  | .setupToken _ _ _ => true
  | .data0 p _ => payloadFits p
  | .data1 p _ => payloadFits p
  | .ack => true
  | .nak => true
  | .stall => true
  | .pre => true
  | .stdGetStatus _ => true
  | .stdClearFeature _ => true
  | .stdSetFeature _ => true
  | .stdSetAddress _ => true
  | .stdGetDescriptor _ => true
  | .stdSetDescriptor _ => true
  | .stdGetConfiguration _ => true
  | .stdSetConfiguration _ => true
  | .stdGetInterface _ => true
  | .stdSetInterface _ => true
  | .stdSynchFrame _ => true
  | .stdOther req _ => unnamedStandardCode req
  | .vendorEcho _ => true
  | .vendorGetFunc _ => true
  | .vendorSetDelay _ => true
  | .vendorGetStatus _ => true
  | .vendorI2cIo _ _ _ => true
  | .vendorUnknown req _ => unknownVendorCode req
  | .classEcho _ => true
  | .classGetFunc _ => true
  | .classSetDelay _ => true
  | .classGetStatus _ => true
  | .classI2cIo _ _ _ => true
  | .classUnknown req _ => unknownVendorCode req
  | .reservedType _ _ => true
  | .i2cReserved0 data => noData data
  | .i2cStart data => noData data
  | .i2cRstart data => noData data
  | .i2cStop data => noData data
  | .i2cWrite _ => true
  | .i2cReadAck data => noData data
  | .i2cReadNak data => noData data
  | .i2cReserved7 data => noData data
  | .calReserved0 => true
  | .calRun => true
  | .calLoad => true
  | .calReserved3 => true

end Sys2Proof
end

