-- ==== Sys2Proof/Decode.lean ====
section
/-! DEFINITION. The decoder of the four input vocabularies (R131), total on any bytes and rejecting by name; the
encoder, written from the same tables; the byte-order helpers both use; and the reading of a bare word of
spec/opcode_table.json. -/

namespace Sys2Proof

/-- `{b1, b0}`: the little-endian value of two bytes in wire order (R11, R73). -/
def le16 (b0 b1 : Byte) : Half := b1 ++ b0

/-- `v[7:0]` (R11). -/
def lo8 (v : Half) : Byte := v.extractLsb' 0 8

/-- `v[15:8]` (R11). -/
def hi8 (v : Half) : Byte := v.extractLsb' 8 8

/-- A received PID byte is valid when its high nibble is the complement of its low one (R104). -/
def validPid (b : Byte) : Bool := b.extractLsb' 4 4 == ~~~(b.extractLsb' 0 4)

/-- The port an instruction comes in at: the vocabulary it is read in (R131). -/
inductive Port where
  | usb      -- packets on the USB lines, read by the ISR
  | request  -- SETUP payloads, read by the poll loop's dispatcher
  | i2c      -- the I2C sequencer's command port (R118)
  | cal      -- the calibrator's command port (R119)
  deriving DecidableEq, Repr

/-- Why the decoder rejects bytes. Nothing here is fatal to the block: it drops what it cannot use (R121). -/
inductive DecodeError where
  /-- No byte at all between SYNC and EOP (R143). -/
  | emptyPacket
  /-- The PID byte fails its check nibble (R104, R123). -/
  | invalidPid
  /-- The PID byte is valid but not in R103's table (R122). -/
  | unlistedPid
  /-- A token or SOF packet of another length than 3 bytes (R102, R144). -/
  | tokenLength
  /-- A data packet of fewer than 3 or more than 11 bytes (R102, R123). -/
  | dataLength
  /-- A handshake or PRE packet of more than 1 byte (R102). -/
  | handshakeLength
  /-- A SETUP payload of another length than 8 bytes (R152). -/
  | requestLength
  /-- A command port's word of the wrong size, or with a bit above the port's width (R118, R119). -/
  | portWidth
  deriving DecidableEq, Repr

/-- A token's operand fields, from the two bytes after the PID (R102). -/
def decodeToken (mk : BitVec 7 → BitVec 4 → BitVec 5 → Instr) : List Byte → Except DecodeError Instr
  | [b1, b2] =>
    let w := le16 b1 b2
    .ok (mk (w.extractLsb' 0 7) (w.extractLsb' 7 4) (w.extractLsb' 11 5))
  | _ => .error .tokenLength

/-- A SOF packet's fields, from the two bytes after the PID (R102). -/
def decodeSof : List Byte → Except DecodeError Instr
  | [b1, b2] =>
    let w := le16 b1 b2
    .ok (.sof (w.extractLsb' 0 11) (w.extractLsb' 11 5))
  | _ => .error .tokenLength

/-- Splits a data packet's bytes after the PID into payload and CRC16, low byte first (R74, R102). -/
def splitData : List Byte → Option (List Byte × Half)
  | [] => none
  | [_] => none
  | [lo, hi] => some ([], le16 lo hi)
  | b :: rest => (splitData rest).map fun (p, c) => (b :: p, c)

/-- A data packet's fields: 0 to 8 payload bytes and the CRC16 (R102). -/
def decodeData (mk : List Byte → Half → Instr) (bytes : List Byte) : Except DecodeError Instr :=
  match splitData bytes with
  | some (p, c) => if payloadFits p then .ok (mk p c) else .error .dataLength
  | none => .error .dataLength

/-- A handshake (or PRE) packet is its PID byte alone (R102). -/
def decodeHandshake (i : Instr) : List Byte → Except DecodeError Instr
  | [] => .ok i
  | _ => .error .handshakeLength

/-- Vocabulary 1: the packet that starts a transaction, by its PID byte (R103, R143). -/
def decodeUsb : List Byte → Except DecodeError Instr
  | [] => .error .emptyPacket
  | pid :: rest =>
    if validPid pid then
      if pid = 0xE1 then decodeToken .outToken rest
      else if pid = 0x69 then decodeToken .inToken rest
      else if pid = 0xA5 then decodeSof rest
      else if pid = 0x2D then decodeToken .setupToken rest
      else if pid = 0xC3 then decodeData .data0 rest
      else if pid = 0x4B then decodeData .data1 rest
      else if pid = 0xD2 then decodeHandshake .ack rest
      else if pid = 0x5A then decodeHandshake .nak rest
      else if pid = 0x1E then decodeHandshake .stall rest
      else if pid = 0x3C then decodeHandshake .pre rest
      else .error .unlistedPid
    else .error .invalidPid

/-- A standard request, by bRequest (R108). -/
def decodeStandard (req : Byte) (r : Setup) : Instr :=
  if req = 0x00 then .stdGetStatus r
  else if req = 0x01 then .stdClearFeature r
  else if req = 0x03 then .stdSetFeature r
  else if req = 0x05 then .stdSetAddress r
  else if req = 0x06 then .stdGetDescriptor r
  else if req = 0x07 then .stdSetDescriptor r
  else if req = 0x08 then .stdGetConfiguration r
  else if req = 0x09 then .stdSetConfiguration r
  else if req = 0x0A then .stdGetInterface r
  else if req = 0x0B then .stdSetInterface r
  else if req = 0x0C then .stdSynchFrame r
  else .stdOther req r

/-- A vendor request, by bRequest: bits [7:2] = 000001 select I2C_IO, bit 0 is its begin flag and bit 1 its end
flag (R109, R230). -/
def decodeVendor (req : Byte) (r : Setup) : Instr :=
  if req.extractLsb' 2 6 = 1 then .vendorI2cIo (req.getLsbD 0) (req.getLsbD 1) r
  else if req = 0 then .vendorEcho r
  else if req = 1 then .vendorGetFunc r
  else if req = 2 then .vendorSetDelay r
  else if req = 3 then .vendorGetStatus r
  else .vendorUnknown req r

/-- A class request decodes the way a vendor request does (R230). -/
def decodeClass (req : Byte) (r : Setup) : Instr :=
  if req.extractLsb' 2 6 = 1 then .classI2cIo (req.getLsbD 0) (req.getLsbD 1) r
  else if req = 0 then .classEcho r
  else if req = 1 then .classGetFunc r
  else if req = 2 then .classSetDelay r
  else if req = 3 then .classGetStatus r
  else .classUnknown req r

/-- Vocabularies 2 and 3: the 8 bytes of a SETUP payload, by `bmRequestType[6:5]` and bRequest (R107, R200). -/
def decodeRequest : List Byte → Except DecodeError Instr
  | [rt, req, v0, v1, i0, i1, l0, l1] =>
    let r : Setup := ⟨rt.getLsbD 7, rt.extractLsb' 0 5, le16 v0 v1, le16 i0 i1, le16 l0 l1⟩
    let type : BitVec 2 := rt.extractLsb' 5 2
    .ok (if type = 0 then decodeStandard req r
      else if type = 1 then decodeClass req r
      else if type = 2 then decodeVendor req r
      else .reservedType req r)
  | _ => .error .requestLength

/-- A sequencer command, by `op[2:0]` (R118). -/
def decodeI2cOp (op : BitVec 3) (data : Byte) : Instr :=
  if op = 0 then .i2cReserved0 data
  else if op = 1 then .i2cStart data
  else if op = 2 then .i2cRstart data
  else if op = 3 then .i2cStop data
  else if op = 4 then .i2cWrite data
  else if op = 5 then .i2cReadAck data
  else if op = 6 then .i2cReadNak data
  else .i2cReserved7 data

/-- Vocabulary 4, the sequencer: the 11-bit word `op, data` as two bytes, low byte first (R118). -/
def decodeI2c : List Byte → Except DecodeError Instr
  | [b0, b1] => if b1.extractLsb' 3 5 = 0 then .ok (decodeI2cOp (b1.extractLsb' 0 3) b0) else .error .portWidth
  | _ => .error .portWidth

/-- Vocabulary 4, the calibrator: the 2-bit command in a byte (R119). -/
def decodeCal : List Byte → Except DecodeError Instr
  | [b] =>
    if b = 0 then .ok .calReserved0
    else if b = 1 then .ok .calRun
    else if b = 2 then .ok .calLoad
    else if b = 3 then .ok .calReserved3
    else .error .portWidth
  | _ => .error .portWidth

/-- The decoder: the instruction that the bytes at a port spell, or why there is none. -/
def decode : Port → List Byte → Except DecodeError Instr
  | .usb, bytes => decodeUsb bytes
  | .request, bytes => decodeRequest bytes
  | .i2c, bytes => decodeI2c bytes
  | .cal, bytes => decodeCal bytes

/-! ### The encoder -/

/-- A token packet: the PID byte, then crc5, endpoint and address as a little-endian 16-bit value (R102). -/
def tokenBytes (pid : Byte) (addr : BitVec 7) (endp : BitVec 4) (crc : BitVec 5) : List Byte :=
  let w : Half := crc ++ endp ++ addr
  [pid, lo8 w, hi8 w]

/-- A SOF packet (R102). -/
def sofBytes (frame : BitVec 11) (crc : BitVec 5) : List Byte :=
  let w : Half := crc ++ frame
  [0xA5, lo8 w, hi8 w]

/-- A data packet: PID, payload, CRC16 low byte first (R74, R102). -/
def dataBytes (pid : Byte) (payload : List Byte) (crc : Half) : List Byte :=
  pid :: payload ++ [lo8 crc, hi8 crc]

/-- A SETUP payload (R107). -/
def setupBytes (type : BitVec 2) (req : Byte) (r : Setup) : List Byte :=
  [BitVec.ofBool r.dir ++ type ++ r.recipient, req, lo8 r.wValue, hi8 r.wValue, lo8 r.wIndex, hi8 r.wIndex,
   lo8 r.wLength, hi8 r.wLength]

/-- The bRequest of I2C_IO: 000001, then end, then begin (R109). -/
def i2cIoCode (beginFlag endFlag : Bool) : Byte := (1 : BitVec 6) ++ BitVec.ofBool endFlag ++ BitVec.ofBool beginFlag

/-- The sequencer's 11-bit word `op, data` (R118). -/
def i2cWord (op : BitVec 3) (data : Byte) : BitVec 11 := op ++ data

/-- The sequencer's word as the two bytes of its port, low byte first. -/
def i2cWordBytes (w : BitVec 11) : List Byte := [w.extractLsb' 0 8, (w.extractLsb' 8 3).setWidth 8]

/-- The calibrator's 2-bit command as the byte of its port. -/
def calWordBytes (w : BitVec 2) : List Byte := [w.setWidth 8]

/-- The encoder: the port and the bytes of an instruction, from R103 (PIDs), R108 and R109 (requests), R118 and
R119 (commands). -/
def encode : Instr → Port × List Byte
  | .outToken a e c => (.usb, tokenBytes 0xE1 a e c)
  | .inToken a e c => (.usb, tokenBytes 0x69 a e c)
  | .sof f c => (.usb, sofBytes f c)
  | .setupToken a e c => (.usb, tokenBytes 0x2D a e c)
  | .data0 p c => (.usb, dataBytes 0xC3 p c)
  | .data1 p c => (.usb, dataBytes 0x4B p c)
  | .ack => (.usb, [0xD2])
  | .nak => (.usb, [0x5A])
  | .stall => (.usb, [0x1E])
  | .pre => (.usb, [0x3C])
  | .stdGetStatus r => (.request, setupBytes 0 0x00 r)
  | .stdClearFeature r => (.request, setupBytes 0 0x01 r)
  | .stdSetFeature r => (.request, setupBytes 0 0x03 r)
  | .stdSetAddress r => (.request, setupBytes 0 0x05 r)
  | .stdGetDescriptor r => (.request, setupBytes 0 0x06 r)
  | .stdSetDescriptor r => (.request, setupBytes 0 0x07 r)
  | .stdGetConfiguration r => (.request, setupBytes 0 0x08 r)
  | .stdSetConfiguration r => (.request, setupBytes 0 0x09 r)
  | .stdGetInterface r => (.request, setupBytes 0 0x0A r)
  | .stdSetInterface r => (.request, setupBytes 0 0x0B r)
  | .stdSynchFrame r => (.request, setupBytes 0 0x0C r)
  | .stdOther req r => (.request, setupBytes 0 req r)
  | .vendorEcho r => (.request, setupBytes 2 0 r)
  | .vendorGetFunc r => (.request, setupBytes 2 1 r)
  | .vendorSetDelay r => (.request, setupBytes 2 2 r)
  | .vendorGetStatus r => (.request, setupBytes 2 3 r)
  | .vendorI2cIo b e r => (.request, setupBytes 2 (i2cIoCode b e) r)
  | .vendorUnknown req r => (.request, setupBytes 2 req r)
  | .classEcho r => (.request, setupBytes 1 0 r)
  | .classGetFunc r => (.request, setupBytes 1 1 r)
  | .classSetDelay r => (.request, setupBytes 1 2 r)
  | .classGetStatus r => (.request, setupBytes 1 3 r)
  | .classI2cIo b e r => (.request, setupBytes 1 (i2cIoCode b e) r)
  | .classUnknown req r => (.request, setupBytes 1 req r)
  | .reservedType req r => (.request, setupBytes 3 req r)
  | .i2cReserved0 d => (.i2c, i2cWordBytes (i2cWord 0 d))
  | .i2cStart d => (.i2c, i2cWordBytes (i2cWord 1 d))
  | .i2cRstart d => (.i2c, i2cWordBytes (i2cWord 2 d))
  | .i2cStop d => (.i2c, i2cWordBytes (i2cWord 3 d))
  | .i2cWrite d => (.i2c, i2cWordBytes (i2cWord 4 d))
  | .i2cReadAck d => (.i2c, i2cWordBytes (i2cWord 5 d))
  | .i2cReadNak d => (.i2c, i2cWordBytes (i2cWord 6 d))
  | .i2cReserved7 d => (.i2c, i2cWordBytes (i2cWord 7 d))
  | .calReserved0 => (.cal, calWordBytes 0)
  | .calRun => (.cal, calWordBytes 1)
  | .calLoad => (.cal, calWordBytes 2)
  | .calReserved3 => (.cal, calWordBytes 3)

/-! ### A bare word of the opcode table -/

/-- The shortest packet that starts with a PID, its bytes after the PID zero: 3 bytes for a token, SOF or data
packet, 1 for the others (R102); none where the byte is not a PID of R103's table. -/
def zeroPacket (pid : Byte) : Option (List Byte) :=
  if [0xE1, 0x69, 0xA5, 0x2D, 0xC3, 0x4B].contains pid then some [pid, 0, 0]
  else if [0xD2, 0x5A, 0x1E, 0x3C].contains pid then some [pid]
  else none

/-- The port and bytes that a word of the opcode table stands for, the bits above `nbits` zero. The table's four
vocabularies share their words, so a word alone does not say its port; log entry 3 gives the convention:
- up to 8 bits: a PID of R103's table is a USB packet, 0 to 3 a calibrator command, any other byte the
  bmRequestType of a SETUP payload;
- 9 to 16 bits: a word with bits [15:11] and [7:0] zero is a sequencer command (R118: data is 0 but for WRITE), any
  other the first two bytes of a SETUP payload;
- exactly 2 and exactly 11 bits (the two command ports' own widths): the calibrator's and the sequencer's word;
- 24 bits: a token packet where the first byte is a token's PID, else as below;
- more: a SETUP payload. -/
def tableBytes (nbits w : Nat) : Port × List Byte :=
  let byte (k : Nat) : Byte := BitVec.ofNat 8 (w >>> (8 * k))
  let setup : Port × List Byte := (.request, [byte 0, byte 1, byte 2, byte 3, byte 4, byte 5, byte 6, byte 7])
  if nbits = 2 then (.cal, [byte 0])
  else if nbits ≤ 8 then
    match zeroPacket (byte 0) with
    | some packet => (.usb, packet)
    | none => if w < 4 then (.cal, [byte 0]) else setup
  else if nbits = 11 then (.i2c, [byte 0, byte 1])
  else if nbits ≤ 16 then
    if byte 0 = 0 ∧ w < 0x800 then (.i2c, [byte 0, byte 1]) else setup
  else if nbits = 24 ∧ [0xE1, 0x69, 0xA5, 0x2D].contains (byte 0) then (.usb, [byte 0, byte 1, byte 2])
  else setup

/-- The instruction the decoder reads from a word of the opcode table (none where it refuses). -/
def decodeTableWord (nbits w : Nat) : Option Instr :=
  match decode (tableBytes nbits w).1 (tableBytes nbits w).2 with
  | .ok i => some i
  | .error _ => none

end Sys2Proof
end

