-- ==== Sys2Proof/Config.lean ====
section
/-! DEFINITION. The implementation parameters of spec 00_scope.md section 5. A parameter the spec fixes is a
definition; a parameter the spec leaves OPEN is an opaque constant without a body, so that every claim
holds for every value of it (R9). An OPEN parameter with a constraint is an opaque raw number folded into
the constraint's range: every value that meets the constraint is possible, and no other. -/

namespace Sys2Proof.Config

/-- MAX_PAYLOAD: payload bytes per data packet. -/
def maxPayload : Nat := 8

/-- BUF_BYTES: PID, payload and two CRC bytes. -/
abbrev bufBytes : Nat := 11

/-- RESET_SAMPLES: consecutive low samples of D- that mean a bus reset (R169). -/
def resetSamples : Nat := 10

/-- TRIM_UNSET: the non-volatile sentinel "never calibrated". -/
def trimUnset : Byte := 0xFF

/-- REPLY_SENTINEL: the reply length that means "the callback supplies the data" (R114). -/
def replySentinel : Byte := 0xFF

/-- REPLY_MAX: the longest data stage the transmitter serves. -/
def replyMax : Byte := 255

/-- RX_CRC_CHECK: a data packet whose CRC16 fails is dropped (D7). -/
def rxCrcCheck : Bool := true

/-- WRITE_CALLBACK: an OUT payload is forwarded to the bridge's write path (D48). -/
def writeCallback : Bool := true

/-- EP1_PRESENT: there is no secondary endpoint (D4). -/
def ep1Present : Bool := false

/-- RESERVED_TYPE_FORWARD: request type 3 is not forwarded to the bridge (D17). -/
def reservedTypeForward : Bool := false

/-- NAK_READ_FILL: how many zero bytes a read callback returns when the address was not acked: its
capacity (D25). -/
def nakReadFill (cap : Nat) : Nat := cap

/-- OPEN RX_DUP_FILTER: whether the receiver drops an OUT whose toggle repeats the last one (D8). -/
opaque rxDupFilter : Bool

/-- OPEN FUNC_MASK: the GET_FUNC capability mask (D20). -/
opaque funcMask : BitVec 32

/-- OPEN SELF_POWERED: bit 0 of the standard GET_STATUS reply (D18). -/
opaque selfPowered : Bool

/-- OPEN CONFIG_VALUE: the byte GET_CONFIGURATION returns (D18). -/
opaque configValue : Byte

/-- OPEN DELAY_SCALE: from requested microseconds to delay ticks (D28). -/
opaque delayScale : Half → Half

/-- DEFAULT_DELAY before its constraint (at least 1) is applied. -/
opaque defaultDelayRaw : Half

/-- OPEN DEFAULT_DELAY, at least 1: `full_delay` after power-on (D29). -/
def defaultDelay : Half := if defaultDelayRaw = 0 then 1 else defaultDelayRaw

/-- OPEN FRAME_TARGET: the count a correctly trimmed oscillator gives (D36). -/
opaque frameTarget : Half

/-- OPEN TRIM_POR: the trim register at power-on, before any load (D35). -/
opaque trimPor : Byte

/-- `M` of R300: the frame-length count the oscillator gives at a trim value, before the error that the
environment chooses. Nothing is assumed of it (D36). -/
opaque frameCount : Byte → Half

/-- OPEN NV_TRIM_OFFSET (D51). -/
opaque nvTrimOffset : Nat

/-- OPEN NV_SERIAL_OFFSET (D51). -/
opaque nvSerialOffset : Nat

/-- OPEN: the bit-time limit of R141, whose value the spec does not give: how many bit times after the first the receiver
still waits for SYNC to begin (log entry 17). -/
opaque syncWait : Nat

/-- The raw number behind CURSOR_BITS. -/
opaque cursorBitsRaw : Nat

/-- OPEN CURSOR_BITS: the width of the transmit cursor, so the RAM and ROM spaces have 2^CURSOR_BITS bytes
(R70). At least 2, because the reply buffer's 4 bytes or more lie in the RAM space (D49). -/
def cursorBits : Nat := cursorBitsRaw + 2

/-- The raw number behind REPLY_BUF_LEN. -/
opaque replyBufLenRaw : Nat

/-- OPEN REPLY_BUF_LEN: at least 4, and no more than the RAM space holds (D49). -/
def replyBufLen : Nat := 4 + replyBufLenRaw % (2 ^ cursorBits - 3)

/-- The raw number behind the reply buffer's address. -/
opaque replyBaseRaw : Nat

/-- The RAM address of `reply_buf[0]`: any address at which the whole buffer fits in the RAM space (R70; the
spec gives no address map, R80). -/
def replyBase : Nat := replyBaseRaw % (2 ^ cursorBits - replyBufLen + 1)

/-- Free value: what the RAM space holds at power-on (R350: unspecified). -/
opaque ramInit : Nat → Byte

/-- The constant descriptor tables: the contents of the ROM space (R70; the contents are outside the scope,
R5). -/
opaque rom : Nat → Byte

/-- OPEN: the lowest character the serial digits are validated against (R42, D51). -/
opaque serialLow : Byte

/-- OPEN: the highest character the serial digits are validated against (R42, D51). -/
opaque serialHigh : Byte

/-- OPEN: the hard-coded fallback of each serial digit (R42, D51). -/
opaque serialFallback : Nat → Byte

/-- A result of DESCRIPTORS (R207): no such descriptor, a constant table in ROM, or a string composed at
run time and placed in the RAM reply buffer. -/
inductive Descriptor where
  | absent
  | inRom (addr : Nat) (len : Nat)
  | inRam (bytes : List Byte)
  deriving DecidableEq, Repr, Inhabited

/-- DESCRIPTORS before its constraints are applied, as a function of type, index, wIndex and the three
validated serial digits. -/
opaque descriptorsRaw : Byte → Byte → Half → List Byte → Descriptor

/-- The constraints of R207: every length is at most 254 (so that it is never the 0xFF sentinel), and a RAM
result fits the reply buffer. -/
def Descriptor.admitted : Descriptor → Descriptor
  | .absent => .absent
  | .inRom a n => if n ≤ 254 then .inRom a n else .absent
  | .inRam b => if b.length ≤ 254 ∧ b.length ≤ replyBufLen then .inRam b else .absent

/-- OPEN DESCRIPTORS(type, index, wIndex), with the serial digits it may be composed from (D19, R207). -/
def descriptors (dtype dindex : Byte) (wi : Half) (serial : List Byte) : Descriptor :=
  (descriptorsRaw dtype dindex wi serial).admitted

end Sys2Proof.Config
end

