-- ==== Sys2Proof/Machine/State.lean ====
section
/-! DEFINITION. The state of the block: everything spec 10_state.md and 70_reset_and_hazards.md name, grouped by
the engine that owns it, and the environment of the packet-level model (R140, R274, R300) as plain data. A
field marked MODEL is the model's own; every other field is the spec's, under the spec's name. -/

namespace Sys2Proof.Machine

/-! ### Names -/

/-- TransmitState (R31). -/
inductive TxState where
  | idle | ram | rom | callback
  deriving DecidableEq, Repr

/-- The terminal status of the last address phase (R34). -/
inductive I2cStatus where
  | idle | addressAcked | addressNacked
  deriving DecidableEq, Repr

/-- The next step of the poll loop (R22); `boot` while the boot sequence runs (R350, R351). -/
inductive PollPhase where
  | boot | s1 | s2 | s3
  deriving DecidableEq, Repr

/-- The direction of a line of the I2C master (R270). -/
inductive Dir where
  | input | output
  deriving DecidableEq, Repr

/-- The lines the I2C master drives (R270). -/
inductive I2cLine where
  | sda | scl
  deriving DecidableEq, Repr

/-- The lines of the PINS space (R12, R70). -/
inductive Line where
  | i2c (l : I2cLine)
  | dp
  | dm
  deriving DecidableEq, Repr

/-- The non-volatile bytes (R42, R70). -/
inductive NvCell where
  | trim
  | serial (digit : Fin 3)
  deriving DecidableEq, Repr

/-- Which of the two bit delays (R38, R272). -/
inductive DelayKind where
  | full | half
  deriving DecidableEq, Repr

/-! ### The environment's moves -/

/-- A USB line state at low speed (R100). -/
inductive LineState where
  | j | k | se0
  deriving DecidableEq, Repr

/-- A packet the host puts on the wire: the bytes between SYNC and EOP (R140), or the line states themselves
(R100, R101), which the receiver decodes and may find garbled (R141). -/
inductive RxPacket where
  | bytes (b : List Byte)
  | wire  (w : List LineState)
  deriving DecidableEq, Repr

/-- One move of the HOST agent (R140). -/
inductive HostEvent where
  /-- (d) stay idle. -/
  | idle
  /-- (a) offer a transaction: the host's packets in order (a token; the data packet of a SETUP or OUT, or the host's
  handshake after the data packet of an IN), any of which may be missing. -/
  | transaction (packets : List RxPacket)
  /-- Give up a transaction that the ISR has not served: it is lost (R140, R327). -/
  | withdraw
  /-- (b) send a keep-alive, the frame marker; `error` is what the environment adds to the frame count that ends at
  this marker (R300). -/
  | keepAlive (error : Half)
  /-- (c) begin a bus reset: DM goes low. -/
  | resetBegin
  /-- (c) end the bus reset: DM goes high. -/
  | resetEnd
  /-- Drive DP to a level (R72); DM's level is moved by `resetBegin` and `resetEnd` (R169, log entry 15). -/
  | driveDp (high : Bool)
  deriving DecidableEq, Repr

/-- One choice of the BUS agent: which lines a slave holds low (R274). -/
structure BusDrive where
  sdaLow : Bool
  sclLow : Bool
  deriving DecidableEq, Repr

/-- An entry of the I2C master's event history (MODEL): a change of what the master drives, with what it lets each
line be after it (false = driven low, true = released), or a delay and its ticks (R272: recorded, not
counted). -/
inductive BusEvent where
  | drive (sda scl : Bool)
  | delay (ticks : Half)
  deriving DecidableEq, Repr

/-! ### The poll loop's continuation -/

/-- POLL's atomic steps (R81, R150). A list of them is the position inside an operation: the continuation that R22
asks a model to keep. -/
inductive MicroOp where
  -- control
  /-- `int_enable <- 0` (R326). -/
  | intMask
  /-- `int_enable <- 1`. -/
  | intUnmask
  /-- `attach()` of the boot sequence: no state of the block (R351). -/
  | attach
  /-- `goto` the next step of the poll loop (R150). -/
  | goto (p : PollPhase)
  -- S1 (R151 to R155)
  /-- `L <- rx_len`. -/
  | s1Len
  /-- `k <- rx_sel`. -/
  | s1Sel (len : Byte)
  /-- `tp <- rx_token`. -/
  | s1Token (len : Byte) (k : Bool)
  | s1Take (len : Byte) (k : Bool) (token : Byte)
  | setTxLen (n : Byte)
  | setTxState (st : TxState)
  | setTxPid (pid : Byte)
  /-- The next byte of the SETUP payload in `rx_buf[k]`, `read` being those before it (R107, R152). -/
  | readSetup (k : Bool) (read : List Byte)
  /-- `control_dispatch` on the payload read: the fetch of a request. -/
  | dispatch (payload : List Byte)
  | setRxLen (n : Byte)
  | writeCallback (k : Bool) (m : Nat)
  /-- The write callback's loop at its byte j of m (R250). -/
  | writeLoop (k : Bool) (m j : Nat)
  -- S2 (R160 to R167)
  /-- `T <- tx_len`. -/
  | s2Len
  | s2Take (len : Byte)
  | copyRam (i : Nat)
  | copyRom (i : Nat)
  | advanceCursor (n : Nat)
  | readCallback (cap : Nat)
  | putTxByte (i : Nat) (b : Byte)
  | readByte (i : Nat)
  | takeByte (i : Nat)
  | decRemaining
  | stopIfDone (moved : Nat)
  | subTotal (k : Nat)
  | toggleTxPid
  /-- The next payload byte that c is computed from, `read` being those before it; then c's two bytes (R165). -/
  | appendCrc (k : Nat) (read : List Byte)
  | endIfShort (k : Nat)
  | addressCommit
  | setAddrPending (b : Bool)
  -- S3 (R169 to R171)
  | sampleDm (left : Nat)
  | setAddress (a : BitVec 7)
  | clearToggle
  | calibrateOnce
  -- the dispatcher's handlers (R203 to R209, R233 to R236)
  | putReply (i : Nat) (b : Byte)
  | putReplyStatus
  | setCursor (a : BitVec Config.cursorBits)
  | cursorToReply
  | startTransfer (r : Byte) (src : TxState) (wl : Half)
  | setTxTotal (n : Byte)
  | setNewAddress (a : BitVec 7)
  /-- The next serial digit that DESCRIPTORS may use, `digits` being those before it; then the descriptor (R42, R207). -/
  | getDescriptor (dtype dindex : Byte) (wi wl : Half) (digits : List Byte)
  | setDelay (d : Half)
  | setFullDelay (f : Half)
  | setHalfDelay (h : Half)
  -- I2C_IO and the write callback (R240 to R254)
  | clearWriteFail
  | ioAddress (beginFlag endFlag rd : Bool) (addr : BitVec 7) (n : Half)
  | setStatus (st : I2cStatus)
  | setRemaining (n : Half)
  | setBegin (b : Bool)
  | setEnd (b : Bool)
  | setRd (b : Bool)
  | setIoAddr (a : BitVec 7)
  | ioReply (rd : Bool) (wl : Half)
  | noteWriteAck
  -- the I2C master (R270 to R286)
  /-- A command issued to the sequencer's port: the fetch of a sequencer command. -/
  | i2cCmd (w : BitVec 11)
  | rstartCheck
  | setDirection (l : I2cLine) (m : Dir)
  | setLine (l : I2cLine) (v : Bool)
  | delay (d : DelayKind)
  /-- `wait until readLine(SCL) = 1` (R273). -/
  | waitScl
  | sampleAck
  | clearByte
  | sampleBit (i : Nat)
  -- the calibrator (R300 to R306)
  /-- A command issued to the calibrator's port: the fetch of a calibrator command. -/
  | calCmd (w : BitVec 2)
  | calLoad
  | setTrim (v : Byte)
  | setCalDone (b : Bool)
  | calStart
  | setCalStep (step : Byte)
  | calTry
  /-- A measurement begins: the markers before it do not count (R300). -/
  | measureStart
  /-- `wait until` the frame marker that opens the measurement (R300). -/
  | measureOpen
  /-- `wait until` the next frame marker, and the count it ends (R300). -/
  | measureEnd
  | calKeep
  | calNeighbours
  | calCompare (t : Byte)
  | setBest (t : Byte)
  | setBestDev (d : Nat)
  | trimBest
  | nvBest
  deriving DecidableEq, Repr

/-! ### The state -/

/-- USB transport state (spec 10_state.md section 3). -/
structure Usb where
  rxBuf0       : Vector Byte Config.bufBytes
  rxBuf1       : Vector Byte Config.bufBytes
  rxSel        : Bool
  rxLen        : Byte
  rxToken      : Byte
  rxLastToggle : Option Bool
  txBuf        : Vector Byte Config.bufBytes
  txLen        : Byte
  txState      : TxState
  txCursor     : BitVec Config.cursorBits
  txTotal      : Byte
  address      : BitVec 7
  newAddress   : BitVec 7
  addrPending  : Bool
  deriving DecidableEq, Repr

/-- Bridge and I2C transaction state (spec 10_state.md section 4). -/
structure Bridge where
  status    : I2cStatus
  remaining : Half
  beginFlag : Bool
  endFlag   : Bool
  rd        : Bool
  addr      : BitVec 7
  writeFail : Bool
  fullDelay : Half
  halfDelay : Half
  deriving DecidableEq, Repr

/-- I2C line state of the master (spec 10_state.md section 5) and the result of its last command (R118). -/
structure Pins where
  sdaDir : Dir
  sclDir : Dir
  sdaOut : Bool
  sclOut : Bool
  /-- What WRITE returned (R118, R283). -/
  ack    : Bool
  /-- What READ_ACK or READ_NAK returned, or is assembling (R118, R284). -/
  byte   : Byte
  /-- MODEL: the master's event history, newest first. -/
  log    : List BusEvent
  deriving DecidableEq, Repr

/-- The USB lines as the block drives them (R12, R142), each with a direction and an output level. -/
structure Wire where
  dpDir : Dir
  dmDir : Dir
  dpOut : Bool
  dmOut : Bool
  /-- MODEL: the line states the ISR has sent, one for each bit time, newest first. -/
  log   : List LineState
  deriving DecidableEq, Repr

/-- Calibrator state and the non-volatile store (spec 10_state.md section 6). -/
structure Cal where
  oscTrim  : Byte
  done     : Bool
  nvTrim   : Byte
  nvSerial : Vector Byte 3
  trial    : Byte
  step     : Byte
  best     : Byte
  bestDev  : Option Nat
  /-- `m`: what the last `Measure()` returned (R302). -/
  count    : Half
  deriving DecidableEq, Repr

/-- Interrupt state and the ISR's own state (spec 10_state.md section 7, R22). -/
structure Irq where
  enable  : Bool
  pending : Bool
  active  : Bool
  token   : Byte
  /-- The packets of the transaction being served that the ISR has not received yet (R140). -/
  rx      : List RxPacket
  /-- MODEL: the ISR has sent a packet in this activation (R23's Transmitting). -/
  sent    : Bool
  deriving DecidableEq, Repr

/-- The poll loop's control state (R22). -/
structure Poll where
  phase : PollPhase
  cont  : List MicroOp
  deriving DecidableEq, Repr

/-- The environment (MODEL): the scripts of the two environment agents, their present choices, and the history of
what the device sent. An empty script means that the agent keeps its present choice. -/
structure Env where
  host   : List HostEvent
  bus    : List BusDrive
  /-- `ext_low[SDA]`. -/
  sdaLow : Bool
  /-- `ext_low[SCL]`. -/
  sclLow : Bool
  /-- The level the host drives DP to (R72). -/
  dpHigh : Bool
  /-- The host is in a bus reset: it drives DM low, and high otherwise (R169). -/
  dmLow  : Bool
  /-- The transaction the host offers and the ISR has not taken. -/
  offer  : List RxPacket
  /-- A frame marker that the current measurement has not taken yet, with the error of the count it ends. -/
  marker : Option Half
  /-- The packets the device has sent, newest first (R140: the event history). -/
  sent   : List (List Byte)
  deriving DecidableEq, Repr

/-- The RAM space as a canonical list of cells: addresses strictly rising, no entry equal to what an unlisted
address reads as (R70). -/
abbrev Memory := List Host.Cell

/-- The state of the block and of its environment. -/
structure State where
  usb    : Usb
  bridge : Bridge
  pins   : Pins
  wire   : Wire
  cal    : Cal
  irq    : Irq
  poll   : Poll
  env    : Env
  /-- The RAM space; the reply buffer lies in it (R70). -/
  ram    : Memory
  deriving DecidableEq, Repr

/-- Why a step stops. The block itself never stops: "Nothing in this subsystem is fatal" (R121). -/
inductive Fault where
  /-- Raised by a repeated start while the master does not hold SCL low, which the source calls undefined (R281,
  R331). Safe: the model stops where the hardware does something unknown. -/
  | i2cRstartUndefined
  /-- Raised by the sequencer's commands 0 and 7 and the calibrator's commands 0 and 3, which spell no operation (R126,
  R286, R331, R333). Safe: no path of the block issues them. -/
  | reservedCommand
  deriving DecidableEq, Repr

/-- Why an instruction has no meaning. -/
inductive Refusal where
  /-- Raised by an arm of `exec` that has no meaning yet; no arm of this model. Safe. -/
  | notModelled (mnemonic : String)
  deriving DecidableEq, Repr

/-! ### Reset -/

/-- A buffer at power-on. R350 leaves its bytes unspecified: DESIGN CHOICE zero (log entry 1). -/
def emptyBuf : Vector Byte Config.bufBytes := Vector.replicate Config.bufBytes 0

/-- The power-on state of R350 with the given non-volatile bytes, before boot. -/
def State.powerOn (nvTrim : Byte) (nvSerial : Vector Byte 3) : State where
  usb := {
    rxBuf0 := emptyBuf, rxBuf1 := emptyBuf, rxSel := false, rxLen := 0, rxToken := 0, rxLastToggle := none,
    txBuf := emptyBuf, txLen := 0, txState := .idle, txCursor := 0, txTotal := 0,
    address := 0, newAddress := 0, addrPending := false }
  bridge := {
    status := .idle, remaining := 0, beginFlag := false, endFlag := false, rd := false, addr := 0,
    writeFail := false, fullDelay := Config.defaultDelay,
    halfDelay := if Config.defaultDelay / 2 = 0 then 1 else Config.defaultDelay / 2 }
  pins := { sdaDir := .input, sclDir := .input, sdaOut := false, sclOut := false, ack := false, byte := 0, log := [] }
  wire := { dpDir := .input, dmDir := .input, dpOut := false, dmOut := false, log := [] }
  cal := {
    oscTrim := Config.trimPor, done := false, nvTrim := nvTrim, nvSerial := nvSerial,
    trial := 0, step := 0, best := 0, bestDev := none, count := 0 }
  irq := { enable := false, pending := false, active := false, token := 0, rx := [], sent := false }
  poll := { phase := .boot, cont := [] }
  env := {
    host := [], bus := [], sdaLow := false, sclLow := false, dpHigh := false, dmLow := false, offer := [],
    marker := none, sent := [] }
  ram := []

/-- The machine right after its first power-on: the trim byte never written (0xFF, R71), the serial digits unspecified
(DESIGN CHOICE zero, log entry 1). -/
def State.reset : State := State.powerOn Config.trimUnset (Vector.replicate 3 0)

end Sys2Proof.Machine
end

