-- ==== Sys2Proof/Machine/Operands.lean ====
section
/-! DEFINITION. The operand forms: what each instruction reads out of its fields (R107 to R111, R117, R118), and the
numeric codes of the named states (R115, R120, R128). -/

namespace Sys2Proof.Machine

/-! ### SETUP fields -/

/-- I2C_IO: the 7-bit target address, wIndex[6:0] (R110). -/
def ioTarget (r : Setup) : BitVec 7 := r.wIndex.extractLsb' 0 7

/-- I2C_IO: the read flag, wValue[0] (R110). -/
def ioRead (r : Setup) : Bool := r.wValue.getLsbD 0

/-- SET_ADDRESS: wValue[6:0] (R206). -/
def requestedAddress (r : Setup) : BitVec 7 := r.wValue.extractLsb' 0 7

/-- GET_DESCRIPTOR: the descriptor type, the high byte of wValue (R108). -/
def descriptorType (r : Setup) : Byte := hi8 r.wValue

/-- GET_DESCRIPTOR: the descriptor index, the low byte of wValue (R108). -/
def descriptorIndex (r : Setup) : Byte := lo8 r.wValue

/-- The host's bound on the data stage: wLength, and 255 where its high byte is not zero (R203). -/
def hostCap (wl : Half) : Byte := if hi8 wl ≠ 0 then Config.replyMax else lo8 wl

/-- `min` on bytes as unsigned numbers (R10). -/
def minByte (a b : Byte) : Byte := if a.toNat ≤ b.toNat then a else b

/-- Byte `j` of the GET_FUNC reply: FUNC_MASK in little-endian order (R76, R234). -/
def funcMaskByte (j : Nat) : Byte := Config.funcMask.extractLsb' (8 * j) 8

/-- The first byte of the standard GET_STATUS reply: the self-powered bit, zero-extended (R113, R205). -/
def selfPoweredByte : Byte := (BitVec.ofBool Config.selfPowered).setWidth 8

/-- `max(1, v)` on 16 bits (R236). -/
def atLeastOne (v : Half) : Half := if v = 0 then 1 else v

/-! ### The I2C wire -/

/-- The address byte: `(addr7 << 1) | rd` (R75, R117). -/
def addressByte (a : BitVec 7) (rd : Bool) : Byte := a ++ BitVec.ofBool rd

/-- The bit positions of a byte in I2C order, most significant first (R75). -/
def msbFirst : List Nat := [7, 6, 5, 4, 3, 2, 1, 0]

/-- A byte with bit `i` set to `v`, its other bits kept (R284). -/
def withBit (b : Byte) (i : Nat) (v : Bool) : Byte :=
  if v then b ||| ((1 : Byte) <<< i) else b &&& ~~~((1 : Byte) <<< i)

/-! ### Buffers -/

/-- The receive buffer `rx_buf[k]` (R24). -/
def rxBuf (s : State) (k : Bool) : Vector Byte Config.bufBytes := if k then s.usb.rxBuf1 else s.usb.rxBuf0

/-- Payload byte i of a packet buffer (R24). -/
def payloadByte (buf : Vector Byte Config.bufBytes) (i : Nat) : Byte := buf.toList.getD (1 + i) 0

/-- The first n bytes of a packet buffer. -/
def bufPacket (buf : Vector Byte Config.bufBytes) (n : Nat) : List Byte := buf.toList.take n

/-- A buffer after the first `min(length d, 11)` bytes of `d` are stored in it (R145). -/
def captured (buf : Vector Byte Config.bufBytes) (d : List Byte) : Vector Byte Config.bufBytes :=
  Vector.ofFn fun j => (d[j.val]?).getD buf[j]

/-! ### Spaces -/

/-- The RAM address of `reply_buf[j]` (R39, R70). -/
def replyAddr (j : Nat) : BitVec Config.cursorBits := BitVec.ofNat _ (Config.replyBase + j)

/-- The offset of a non-volatile byte in the NV space (R70, R80). -/
def nvOffset : NvCell → Nat
  | .trim => Config.nvTrimOffset
  | .serial d => Config.nvSerialOffset + d.val

/-- A serial digit as the descriptor sees it: validated against the character range, with a fallback (R42). -/
def serialDigit (nv : Vector Byte 3) (j : Fin 3) : Byte :=
  if Config.serialLow.toNat ≤ nv[j].toNat ∧ nv[j].toNat ≤ Config.serialHigh.toNat then nv[j]
  else Config.serialFallback j.val

/-! ### Codes -/

/-- The encoding of `i2c_status` (R34, R115). -/
def statusCode : I2cStatus → Byte
  | .idle => 0
  | .addressAcked => 1
  | .addressNacked => 2

/-- The encoding of `tx_state` (R120). -/
def txStateCode : TxState → BitVec 2
  | .idle => 0
  | .ram => 1
  | .rom => 2
  | .callback => 3

/-- The encoding of `dir` (R128). -/
def dirCode : Dir → BitVec 1
  | .input => 0
  | .output => 1

/-- The encoding of `poll_phase` (R128); none while boot runs (R350). -/
def phaseCode : PollPhase → Option (BitVec 2)
  | .boot => none
  | .s1 => some 0
  | .s2 => some 1
  | .s3 => some 2

/-- The `i2c_cmd` word of START (R118). -/
def startWord : BitVec 11 := i2cWord 1 0

/-- The `i2c_cmd` word of RSTART (R118). -/
def rstartWord : BitVec 11 := i2cWord 2 0

/-- The `i2c_cmd` word of STOP (R118). -/
def stopWord : BitVec 11 := i2cWord 3 0

/-- The `i2c_cmd` word of WRITE with its data (R118). -/
def writeWord (b : Byte) : BitVec 11 := i2cWord 4 b

/-- The `i2c_cmd` word of READ_NAK for the last byte, of READ_ACK otherwise (R118, R246). -/
def readWord (last : Bool) : BitVec 11 := if last then i2cWord 6 0 else i2cWord 5 0

end Sys2Proof.Machine
end

