-- ==== Sys2Proof/Machine/Flags.lean ====
section
/-! DEFINITION. The tests and check codes of the block: it has no carry, zero or overflow flag (R45); what it computes
are the packet checks (R104 to R106, R144 to R147) and the conditions of the poll loop's rules. -/

namespace Sys2Proof.Machine

/-- `f` applied n times. -/
def iterate {α : Type} (f : α → α) : Nat → α → α
  | 0, x => x
  | n + 1, x => iterate f n (f x)

/-! ### CRC5 (R105) -/

/-- One step of the CRC5 on one bit. -/
def crc5Step (c : BitVec 5) (bit : Bool) : BitVec 5 :=
  if (c.getLsbD 0 ^^ bit) then (c >>> 1) ^^^ 0b10100 else c >>> 1

/-- CRC5 of a token's 11-bit field. -/
def crc5 (v : BitVec 11) : BitVec 5 :=
  ((List.range 11).foldl (fun c i => crc5Step c (v.getLsbD i)) 0b11111) ^^^ 0b11111

/-! ### CRC16 (R106) -/

/-- One shift of the CRC16. -/
def crc16Shift (c : Half) : Half := if c.getLsbD 0 then (c >>> 1) ^^^ 0xA001 else c >>> 1

/-- The CRC16 register after one byte. -/
def crc16Byte (c : Half) (d : Byte) : Half := iterate crc16Shift 8 (c ^^^ d.setWidth 16)

/-- CRC16 of a data packet's payload. -/
def crc16 (payload : List Byte) : Half := payload.foldl crc16Byte 0xFFFF ^^^ 0xFFFF

/-! ### The receiver's tests -/

/-- The toggle of a data PID: 1 for DATA1, 0 otherwise. -/
def toggleOf (pid : Byte) : Bool := pid == 0x4B

/-- `token_ok`: CRC5, address and endpoint 0 (R144; the length is the decoder's check). -/
def tokenOk (s : State) (addr : BitVec 7) (endp : BitVec 4) (crc : BitVec 5) : Bool :=
  crc == crc5 (endp ++ addr) && addr == s.usb.address && endp == 0

/-- The last two bytes of a data packet as its CRC16 (R74). -/
def packetCrc (d : List Byte) : Half := le16 (d.getD (d.length - 2) 0) (d.getD (d.length - 1) 0)

/-- The payload bytes of a data packet: `d[1 .. length(d) - 3]`. -/
def packetPayload (d : List Byte) : List Byte := (d.drop 1).take (d.length - 3)

/-- `data_ok`: 3 to 11 bytes, a data PID and, when RX_CRC_CHECK holds, the CRC16 (R147). -/
def dataOk (d : List Byte) : Bool :=
  (3 ≤ d.length && d.length ≤ Config.bufBytes) && (d.getD 0 0 == 0xC3 || d.getD 0 0 == 0x4B) &&
    (!Config.rxCrcCheck || packetCrc d == crc16 (packetPayload d))

/-- `dup_drop`: an OUT whose toggle repeats the last accepted one, when RX_DUP_FILTER holds (R146). -/
def dupDrop (s : State) (token : Byte) (d : List Byte) : Bool :=
  token == 0xE1 && s.usb.rxLastToggle == some (toggleOf (d.getD 0 0)) && Config.rxDupFilter

/-! ### The interrupt (R322) -/

/-- The ISR's entry condition. -/
def interruptDue (s : State) : Bool := s.irq.pending && s.irq.enable && !s.irq.active

/-! ### The poll loop's tests -/

/-- S2 refills when the transmit buffer is empty and a transfer is active (R160). -/
def refillDue (s : State) (len : Byte) : Bool := len == 0 && s.usb.txState != .idle

/-- The address is committed when the transfer is fully idle and one is pending (R167). -/
def commitDue (s : State) : Bool := s.usb.txState == .idle && s.usb.txLen == 0 && s.usb.addrPending

/-- The capacity of the next packet: `min(8, tx_total)` (R160). -/
def capacity (s : State) : Nat := min Config.maxPayload s.usb.txTotal.toNat

/-- A callback's stop: this call brought the counter to zero and the end flag is set (R247, R250). -/
def stopDue (s : State) (moved : Nat) : Bool := 0 < moved && s.bridge.remaining == 0 && s.bridge.endFlag

/-- The deviation of a count from the target (R301). -/
def deviation (m : Half) : Nat :=
  (m.toNat - Config.frameTarget.toNat) + (Config.frameTarget.toNat - m.toNat)

/-- A later candidate replaces the best only with a strictly smaller deviation (R304). -/
def improves (best : Option Nat) (d : Nat) : Bool :=
  match best with
  | none => true
  | some b => d < b

/-! ### Views of the control state (R23) -/

/-- Receiving: the ISR has packets of a transaction left to receive. -/
def receiving (s : State) : Bool := s.irq.active && !s.irq.rx.isEmpty

/-- Transmitting: the ISR has sent a packet in this activation. -/
def transmitting (s : State) : Bool := s.irq.active && s.irq.sent

/-- DispatchingSetup: POLL is in S1 with a SETUP in the receive buffer. -/
def dispatchingSetup (s : State) : Bool := s.poll.phase == .s1 && s.usb.rxLen != 0 && s.usb.rxToken == 0x2D

/-- Idle-Listening otherwise. -/
def idleListening (s : State) : Bool := !receiving s && !transmitting s && !dispatchingSetup s

end Sys2Proof.Machine
end

