-- ==== Sys2Proof/Machine/Wire.lean ====
section
/-! DEFINITION. The bit level of the USB wire (R100, R101, R141, R142; informative by R6): what the line states of
a packet decode to, and the line states the device sends for a packet. -/

namespace Sys2Proof.Machine

/-- The longest packet the receiver takes before it calls it garbled: 11 bytes (R141). -/
def maxPacketBytes : Nat := 11

/-- A byte's bits, least significant first (R73, R101). -/
def byteBits (b : Byte) : List Bool := (List.range 8).map b.getLsbD

/-- The bits of a packet in wire order. -/
def packetBits (bytes : List Byte) : List Bool := bytes.flatMap byteBits

/-- SYNC: the bits 00000001 (R101). -/
def syncBits : List Bool := [false, false, false, false, false, false, false, true]

/-- Bit stuffing: after six consecutive 1 bits a 0 bit is inserted (R101). `ones` is how many 1 bits were just sent. -/
def stuffBits : Nat → List Bool → List Bool
  | _, [] => []
  | ones, b :: rest =>
    if b then
      if ones = 5 then true :: false :: stuffBits 0 rest else true :: stuffBits (ones + 1) rest
    else false :: stuffBits 0 rest

/-- Removes each 0 that follows six 1s (R141). PRESUMED (USB practice, log entry 17): a 1 there makes the packet
garbled. -/
def unstuffBits : Nat → List Bool → Option (List Bool)
  | _, [] => some []
  | ones, b :: rest =>
    if ones = 6 then
      if b then none else unstuffBits 0 rest
    else
      (unstuffBits (if b then ones + 1 else 0) rest).map (b :: ·)

/-- The other of the two differential states: a 0 bit changes the state, a 1 bit keeps it (NRZI, R101). -/
def nrziNext (prev : LineState) (bit : Bool) : LineState :=
  if bit then prev else match prev with
    | .j => .k
    | .k => .j
    | .se0 => .j

/-- NRZI encoding from a line state. -/
def nrziEncode : LineState → List Bool → List LineState
  | _, [] => []
  | prev, b :: rest => nrziNext prev b :: nrziEncode (nrziNext prev b) rest

/-- NRZI decoding up to SE0, the start of EOP (R141). DESIGN CHOICE (log entry 17): the spec does not say what line states
without SE0 are, and their end is taken for the end of the packet. -/
def nrziDecode : LineState → List LineState → List Bool
  | _, [] => []
  | _, .se0 :: _ => []
  | prev, l :: rest => (l == prev) :: nrziDecode l rest

/-- Waits for the SYNC pattern: the bits after its first occurrence; none where it does not begin within `wait` more
bit times (R141). DESIGN CHOICE (log entry 17): R101 gives SYNC as line states and as bits, and the pattern is looked for
in the decoded bits. -/
def afterSync : List Bool → Nat → Option (List Bool)
  | [], _ => none
  | b :: rest, wait =>
    if syncBits.isPrefixOf (b :: rest) then some ((b :: rest).drop 8)
    else
      match wait with
      | 0 => none
      | wait + 1 => afterSync rest wait

/-- A byte from eight bits, least significant first. -/
def bitsByte : List Bool → Byte
  | [] => 0
  | b :: rest => (bitsByte rest <<< 1) ||| (BitVec.ofBool b).setWidth 8

/-- The bits of a packet as bytes; none where the bit count is not a multiple of 8 (R123). -/
def bitsBytes : List Bool → Option (List Byte)
  | [] => some []
  | b0 :: b1 :: b2 :: b3 :: b4 :: b5 :: b6 :: b7 :: rest =>
    (bitsBytes rest).map (bitsByte [b0, b1, b2, b3, b4, b5, b6, b7] :: ·)
  | _ => none

/-- Bit-level receive: the packet that line states carry, none where there is no SYNC before the bit-time limit
or the packet is garbled (R141). The 1 bit that ends SYNC counts as the first of six. -/
def receiveWire (w : List LineState) : Option (List Byte) := do
  let bits ← afterSync (nrziDecode .j w) Config.syncWait
  let data ← unstuffBits 1 bits
  let bytes ← bitsBytes data
  if bytes.length ≤ maxPacketBytes then some bytes else none

/-- Bit-level transmit: SYNC, the packet's bits stuffed and NRZI-encoded, then EOP: two bit times of SE0 and J (R100,
R142). -/
def transmitWire (bytes : List Byte) : List LineState :=
  nrziEncode .j (syncBits ++ stuffBits 1 (packetBits bytes)) ++ [.se0, .se0, .j]

/-- `ReceivePacket()` on what the host put on the wire: the bytes between SYNC and EOP, or none (R140). -/
def RxPacket.received : RxPacket → Option (List Byte)
  | .bytes b => some b
  | .wire w => receiveWire w

end Sys2Proof.Machine
end

