-- ==== Sys2Proof/Machine/Ops.lean ====
section
/-! DEFINITION. The named operations over memory, buffers and lines; taking the interrupt and returning from it;
the operations' pseudocode as lists of POLL's atomic steps; what one atomic step does; and the running of a
list of them, with the environment moving after each. -/

namespace Sys2Proof.Machine

/-! ### The RAM space (R70, R71) -/

/-- What an unlisted address reads as: a free value, the unspecified power-on contents (R350, log entry 2). -/
def unlistedByte (a : Nat) : Byte := Config.ramInit a

/-- `MemRead(RAM, a, 1)` (R71). -/
def Memory.read : Memory → Nat → Byte
  | [], a => unlistedByte a
  | (k, v) :: rest, a => if a = k then v else Memory.read rest a

/-- The cell that holds `b` at `a` in front of a list, left out where `a` reads as `b` without it. -/
def Memory.cons (a : Nat) (b : Byte) (rest : Memory) : Memory := if b = unlistedByte a then rest else (a, b) :: rest

/-- `MemWrite(RAM, a, 1, b)`, keeping the canonical form. -/
def Memory.write : Memory → Nat → Byte → Memory
  | [], a, b => Memory.cons a b []
  | (k, v) :: rest, a, b =>
    if a < k then Memory.cons a b ((k, v) :: rest)
    else if a = k then Memory.cons a b rest
    else (k, v) :: Memory.write rest a b

/-- `MemWrite(RAM, a, n, bytes)` as n writes of one byte (R77), each address on the cursor's width. -/
def Memory.writeFrom (m : Memory) (a : Nat) : List Byte → Memory
  | [] => m
  | b :: rest => Memory.writeFrom (m.write (a % 2 ^ Config.cursorBits) b) (a + 1) rest

/-- The canonical form: addresses strictly rising above `lo` and inside the space, no entry equal to what an unlisted
address reads as. -/
def Memory.wfFrom : Nat → Memory → Bool
  | _, [] => true
  | lo, (k, v) :: rest =>
    lo ≤ k && k < 2 ^ Config.cursorBits && v != unlistedByte k && Memory.wfFrom (k + 1) rest

/-- The canonical form of the RAM space. -/
def Memory.wf (m : Memory) : Bool := Memory.wfFrom 0 m

/-- One byte of the RAM space. -/
def ramByte (s : State) (a : BitVec Config.cursorBits) : Byte := s.ram.read a.toNat

/-- One byte of the ROM space (R71). -/
def romByte (a : BitVec Config.cursorBits) : Byte := Config.rom a.toNat

/-- `reply_buf[j]` (R39). -/
def replyByte (s : State) (j : Nat) : Byte := ramByte s (replyAddr j)

/-- `reply_buf[j] <- b`. -/
def putReply (j : Nat) (b : Byte) (s : State) : State := { s with ram := s.ram.write (replyAddr j).toNat b }

/-! ### The NV space (R71) -/

/-- `NvRead` of a non-volatile byte. -/
def nvRead (s : State) : NvCell → Byte
  | .trim => s.cal.nvTrim
  | .serial d => s.cal.nvSerial[d]

/-- `NvWrite` of a non-volatile byte. -/
def nvWrite (c : NvCell) (b : Byte) (s : State) : State :=
  match c with
  | .trim => { s with cal.nvTrim := b }
  | .serial d => { s with cal.nvSerial := s.cal.nvSerial.set d b }

/-- A power cycle: every field takes its POR value but the non-volatile bytes (R350). -/
def powerCycle (s : State) : State := State.powerOn s.cal.nvTrim s.cal.nvSerial

/-! ### The lines (R40, R270) -/

/-- `dir[l]`. -/
def lineDir (p : Pins) : I2cLine → Dir
  | .sda => p.sdaDir
  | .scl => p.sclDir

/-- `out[l]`. -/
def lineOut (p : Pins) : I2cLine → Bool
  | .sda => p.sdaOut
  | .scl => p.sclOut

/-- The master lets line l be high: it does not drive it low (R270). -/
def released (p : Pins) (l : I2cLine) : Bool := !(lineDir p l == .output && lineOut p l == false)

/-- `ext_low[l]` (R40). -/
def extLow (e : Env) : I2cLine → Bool
  | .sda => e.sdaLow
  | .scl => e.sclLow

/-- `readLine(l)` (R12, R72): the wired-AND of the master and the slaves on SDA and SCL (R270); on DP and DM the host's
level, or the block's own while it drives the line (R142). The host's DM is low exactly in a bus reset (R169). -/
def readLine (s : State) : Line → Bool
  | .i2c l => released s.pins l && !extLow s.env l
  | .dp => if s.wire.dpDir = .output then s.wire.dpOut else s.env.dpHigh
  | .dm => if s.wire.dmDir = .output then s.wire.dmOut else !s.env.dmLow

/-- Adds to the master's event history what it now drives, where that changed. -/
def logDrive (before after : Pins) : Pins :=
  if released before .sda = released after .sda ∧ released before .scl = released after .scl then after
  else { after with log := .drive (released after .sda) (released after .scl) :: after.log }

/-- `setDirection(l, m)` (R12, R270). -/
def setDirection (l : Line) (m : Dir) (s : State) : State :=
  match l with
  | .i2c .sda => { s with pins := logDrive s.pins { s.pins with sdaDir := m } }
  | .i2c .scl => { s with pins := logDrive s.pins { s.pins with sclDir := m } }
  | .dp => { s with wire.dpDir := m }
  | .dm => { s with wire.dmDir := m }

/-- `setLine(l, v)` (R12, R270). -/
def setLine (l : Line) (v : Bool) (s : State) : State :=
  match l with
  | .i2c .sda => { s with pins := logDrive s.pins { s.pins with sdaOut := v } }
  | .i2c .scl => { s with pins := logDrive s.pins { s.pins with sclOut := v } }
  | .dp => { s with wire.dpOut := v }
  | .dm => { s with wire.dmOut := v }

/-- The ticks of a delay, read at the `delay` call (R272, R288). -/
def delayTicks (s : State) : DelayKind → Half
  | .full => s.bridge.fullDelay
  | .half => s.bridge.halfDelay

/-- `delay(t)`: it changes no state of the block; the event history records t (R272, D31). -/
def delayStep (d : DelayKind) (s : State) : State := { s with pins.log := .delay (delayTicks s d) :: s.pins.log }

/-! ### USB packets -/

/-- `ReceivePacket()`: the host's next packet of the transaction, none where it is missing or garbled (R140). -/
def receivePacket (s : State) : Option (List Byte) × State :=
  match s.irq.rx with
  | [] => (none, s)
  | p :: rest => (p.received, { s with irq.rx := rest })

/-- One bit time of the transmitter: DP and DM at the levels of a line state (R100, R142). -/
def driveState (l : LineState) (s : State) : State :=
  let s1 := setLine .dm (l == .j) (setLine .dp (l == .k) s)
  { s1 with wire.log := l :: s1.wire.log }

/-- Bit-level transmit (R142): DP and DM become outputs, carry the packet's line states one after the other, and are
released to input. -/
def transmit (p : List Byte) (s : State) : State :=
  let s1 := setDirection .dm .output (setDirection .dp .output s)
  setDirection .dm .input (setDirection .dp .input ((transmitWire p).foldl (fun t l => driveState l t) s1))

/-- `Send(packet)`: it is put on the wire, and goes to the event history (R140, R142). -/
def sendPacket (p : List Byte) (s : State) : State :=
  let s1 := transmit p s
  { s1 with env.sent := p :: s1.env.sent, irq.sent := true }

/-- The end of `isr_body`: what the host sends after it in this transaction is not looked at (R143, R144). -/
def isrDone (s : State) : State := { s with irq.rx := [] }

/-! ### The interrupt -/

/-- TAKING THE INTERRUPT (R322): the ISR becomes active, the latch is cleared, interrupts are disabled, and the
transaction the host offers becomes the one this activation serves. -/
def interruptEntry (s : State) : State :=
  { s with
    irq.active := true, irq.pending := false, irq.enable := false, irq.rx := s.env.offer, irq.sent := false
    env.offer := [] }

/-- RETURNING FROM IT (R322, R323): interrupts are enabled again and POLL continues with the step it was about to
take. Nothing was saved and nothing is restored. -/
def interruptReturn (s : State) : State :=
  { s with irq.enable := true, irq.active := false, irq.rx := [], irq.sent := false }

/-! ### The ISR's body (R143 to R148) -/

/-- The bytes of `d` are stored in the buffer that is not active (R25, R145). -/
def captureData (d : List Byte) (s : State) : State :=
  if s.usb.rxSel then { s with usb.rxBuf0 := captured s.usb.rxBuf0 d }
  else { s with usb.rxBuf1 := captured s.usb.rxBuf1 d }

/-- The accepted data packet is published, its length last (R83, R145). -/
def publishData (d : List Byte) (s : State) : State :=
  { s with
    usb.rxLastToggle := some (toggleOf (d.getD 0 0)), usb.rxToken := s.irq.token, usb.rxSel := !s.usb.rxSel
    usb.rxLen := BitVec.ofNat 8 d.length }

/-- `isr_setup_out` on a data packet that arrived: capture, then the tests in R321's order. -/
def isrData (token : Byte) (d : List Byte) (s : State) : State :=
  let s1 := captureData d s
  if !dataOk d then s1
  else if s1.usb.rxLen != 0 then sendPacket [0x5A] s1
  else if dupDrop s1 token d then sendPacket [0xD2] s1
  else sendPacket [0xD2] (publishData d s1)

/-- `isr_setup_out(tp)` (R145). DESIGN CHOICE (log entry 30): of a data packet that is garbled at bit level no byte is
stored; the spec does not say which of its bytes reach the buffer. -/
def isrSetupOut (token : Byte) (s : State) : State :=
  let s1 := { s with irq.token := token }
  match receivePacket s1 with
  | (none, s2) => isrDone s2
  | (some d, s2) => isrDone (isrData token d s2)

/-- `isr_in()` (R148). -/
def isrIn (s : State) : State :=
  if s.usb.txLen = 0 then isrDone (sendPacket [0x5A] s)
  else
    match receivePacket (sendPacket (bufPacket s.usb.txBuf s.usb.txLen.toNat) s) with
    | (h, s1) => isrDone (if h = some [0xD2] then { s1 with usb.txLen := 0 } else s1)

/-! ### The environment's moves (R140, R274, R300) -/

/-- What a move of the HOST agent does. Whatever moves DM sets `int_pending` (R44, R322). DESIGN CHOICE (log entry 11):
the spec does not order these moves, and a move that makes no transition on DM has no effect: the host sends nothing
while it holds the bus in reset, a reset that is held does not begin again, and one that is not held does not end. -/
def hostMove (e : HostEvent) (s : State) : State :=
  match e with
  | .idle => s
  | .transaction ps => if s.env.dmLow then s else { s with env.offer := ps, irq.pending := true }
  | .withdraw => { s with env.offer := [] }
  | .keepAlive err => if s.env.dmLow then s else { s with env.marker := some err, irq.pending := true }
  | .resetBegin =>
    if s.env.dmLow then s else { s with env.dmLow := true, env.dpHigh := false, env.offer := [], irq.pending := true }
  | .resetEnd => if s.env.dmLow then { s with env.dmLow := false, irq.pending := true } else s
  | .driveDp v => if s.env.dmLow then s else { s with env.dpHigh := v }

/-- The HOST agent takes its next move. -/
def hostTick (s : State) : State :=
  match s.env.host with
  | [] => s
  | e :: rest => hostMove e { s with env.host := rest }

/-- The BUS agent makes its next choice (R274). -/
def busTick (s : State) : State :=
  match s.env.bus with
  | [] => s
  | d :: rest => { s with env.bus := rest, env.sdaLow := d.sdaLow, env.sclLow := d.sclLow }

/-- The environment moves once: after every atomic step of POLL (R81) and after every step of the ISR, so that an edge can
come while `int_enable` is 0 and stay latched (R322). -/
def tick (s : State) : State := busTick (hostTick s)

/-! ### The transmitter -/

/-- A byte of `tx_buf`. -/
def putTx (j : Nat) (b : Byte) (s : State) : State := { s with usb.txBuf := s.usb.txBuf.setIfInBounds j b }

/-- The RAM address i bytes after the cursor. -/
def cursorAddr (s : State) (i : Nat) : BitVec Config.cursorBits := s.usb.txCursor + BitVec.ofNat _ i

/-- `tx_cursor <- addr(reply_buf)` (R204). -/
def cursorToReply (s : State) : State := { s with usb.txCursor := replyAddr 0 }

/-! ### The bridge -/

/-- `i2c_remaining <- i2c_remaining - 1`; both callbacks do it only where the counter is not zero (R254). -/
def decRemaining (s : State) : State := { s with bridge.remaining := s.bridge.remaining - 1 }

/-! ### The calibrator -/

/-- The step is kept where the count is below the target (R303). -/
def calKeep (s : State) : State :=
  if s.cal.count.toNat < Config.frameTarget.toNat then { s with cal.trial := s.cal.trial + s.cal.step } else s

/-- The candidates of the neighbourhood search, the ones outside 0..255 left out (R304). -/
def calCandidates (trial : Byte) : List Nat :=
  (if trial.toNat = 0 then [] else [trial.toNat - 1]) ++ [trial.toNat] ++
    (if trial.toNat = 255 then [] else [trial.toNat + 1])

/-- The count of a measurement that a frame marker ends (R300): what the oscillator gives at the present trim value,
plus the environment's error (log entry 9). -/
def measured (s : State) (error : Half) : Half := Config.frameCount s.cal.oscTrim + error

/-! ### The pseudocode of the operations, as lists of atomic steps -/

/-- `pull_low(l)`: the value before the direction (R271). -/
def pullLow (l : I2cLine) : List MicroOp := [.setLine l false, .setDirection l .output]

/-- `release(l)` (R271). -/
def release (l : I2cLine) : List MicroOp := [.setDirection l .input]

/-- `set_sda(v)` (R271). -/
def setSda (v : Bool) : List MicroOp := if v then release .sda else pullLow .sda

/-- `scl_high()`, with the clock-stretch wait (R273). -/
def sclHigh : List MicroOp := release .scl ++ [.delay .half, .waitScl]

/-- `scl_low()` (R273). -/
def sclLow : List MicroOp := pullLow .scl ++ [.delay .half]

/-- `pulse()` (R273). -/
def pulse : List MicroOp := sclHigh ++ [.delay .full] ++ sclLow

/-- `i2c_start()` (R280). -/
def startOps : List MicroOp := pullLow .sda ++ [.delay .half] ++ pullLow .scl ++ [.delay .half]

/-- `i2c_rstart()` (R281). -/
def rstartOps : List MicroOp :=
  [.rstartCheck] ++ release .sda ++ [.delay .half] ++ sclHigh ++ [.delay .half] ++ pullLow .sda ++ [.delay .half] ++
    pullLow .scl ++ [.delay .half]

/-- `i2c_stop()` (R282). -/
def stopOps : List MicroOp :=
  pullLow .sda ++ [.delay .half] ++ sclHigh ++ [.delay .half] ++ release .sda ++ [.delay .half]

/-- One bit of `i2c_write`: SDA, then a clock pulse (R283). -/
def writeBitOps (v : Bool) : List MicroOp := setSda v ++ [.delay .half] ++ pulse

/-- `i2c_write(b)` (R283). -/
def writeOps (b : Byte) : List MicroOp :=
  msbFirst.flatMap (fun i => writeBitOps (b.getLsbD i)) ++ release .sda ++ sclHigh ++ [.sampleAck, .delay .full] ++ sclLow

/-- One bit of `i2c_read`: a clock pulse with a sample of SDA (R284). -/
def readBitOps (i : Nat) : List MicroOp := sclHigh ++ [.sampleBit i, .delay .full] ++ sclLow

/-- `i2c_read(last)` (R284). -/
def readOps (last : Bool) : List MicroOp :=
  release .sda ++ [.clearByte] ++ msbFirst.flatMap readBitOps ++ setSda last ++ pulse

/-- The steps of a sequencer command; none for the reserved ones (R118, R286). -/
def i2cCmdOps (w : BitVec 11) : Option (List MicroOp) :=
  match decodeI2cOp (w.extractLsb' 8 3) (w.extractLsb' 0 8) with
  | .i2cStart _ => some startOps
  | .i2cRstart _ => some rstartOps
  | .i2cStop _ => some stopOps
  | .i2cWrite b => some (writeOps b)
  | .i2cReadAck _ => some (readOps false)
  | .i2cReadNak _ => some (readOps true)
  | _ => none

/-- `Measure()`: from now on, wait for a frame marker and count up to the next one (R300). -/
def measureOps : List MicroOp := [.measureStart, .measureOpen, .measureEnd]

/-- `calibrate()` (R302). -/
def calRunOps : List MicroOp :=
  [.calStart] ++
    ([128, 64, 32, 16, 8, 4, 2, 1] : List Byte).flatMap (fun st => [.setCalStep st, .calTry] ++ measureOps ++ [.calKeep]) ++
    [.calNeighbours]

/-- The neighbourhood search and the result (R304, R305). -/
def calNeighbourOps (trial : Byte) : List MicroOp :=
  (calCandidates trial).flatMap
      (fun t => [.setTrim (BitVec.ofNat 8 t)] ++ measureOps ++ [.calCompare (BitVec.ofNat 8 t)]) ++
    [.trimBest, .nvBest, .setCalDone true]

/-- A candidate against the best so far (R304). -/
def calCompareOps (s : State) (t : Byte) : List MicroOp :=
  if improves s.cal.bestDev (deviation s.cal.count) then [.setBest t, .setBestDev (deviation s.cal.count)] else []

/-- `cal_load()` on the stored trim v (R306). -/
def calLoadOps (v : Byte) : List MicroOp :=
  if v = Config.trimUnset then [.setCalDone false] else [.setTrim v, .setCalDone true]

/-- The steps of a calibrator command; none for the reserved ones (R333). -/
def calCmdOps (w : BitVec 2) : Option (List MicroOp) :=
  if w = 1 then some calRunOps else if w = 2 then some [.calLoad] else none

/-- `start_transfer(r, src, wl)` (R203). -/
def startTransferOps (r : Byte) (src : TxState) (wl : Half) : List MicroOp :=
  if r = Config.replySentinel then [.setTxState .callback, .setTxTotal (hostCap wl)]
  else [.setTxState src, .setTxTotal (minByte r (hostCap wl))]

/-- SET_ADDRESS (R206). -/
def setAddressOps (r : Setup) : List MicroOp :=
  [.setNewAddress (requestedAddress r), .setAddrPending true, .startTransfer 0 .ram r.wLength]

/-- The transfer that GET_DESCRIPTOR starts, for a result of DESCRIPTORS (R203, R207). -/
def serveDescriptorOps (d : Config.Descriptor) (wl : Half) : List MicroOp :=
  match d with
  | .absent => [.startTransfer 0 .ram wl]
  | .inRom a n => [.setCursor (BitVec.ofNat _ a), .startTransfer (BitVec.ofNat 8 n) .rom wl]
  | .inRam b =>
    b.mapIdx (fun j v => .putReply j v) ++ [.cursorToReply, .startTransfer (BitVec.ofNat 8 b.length) .ram wl]

/-- GET_DESCRIPTOR: the serial digits are read one after the other, then DESCRIPTORS gives what is served (R42, R207). -/
def getDescriptorOps (s : State) (dtype dindex : Byte) (wi wl : Half) (digits : List Byte) : List MicroOp :=
  match digits with
  | [] => [.getDescriptor dtype dindex wi wl [serialDigit s.cal.nvSerial 0]]
  | [a] => [.getDescriptor dtype dindex wi wl [a, serialDigit s.cal.nvSerial 1]]
  | a :: b :: _ => serveDescriptorOps (Config.descriptors dtype dindex wi [a, b, serialDigit s.cal.nvSerial 2]) wl

/-- A request that gets a zero-length reply and changes no other state (R202, R210, R232). -/
def emptyReplyOps (wl : Half) : List MicroOp := [.startTransfer 0 .ram wl]

/-- ECHO (R233). -/
def echoOps (r : Setup) : List MicroOp :=
  [.putReply 0 (lo8 r.wValue), .putReply 1 (hi8 r.wValue), .cursorToReply, .startTransfer 2 .ram r.wLength]

/-- GET_FUNC (R234). -/
def getFuncOps (r : Setup) : List MicroOp :=
  [.putReply 0 (funcMaskByte 0), .putReply 1 (funcMaskByte 1), .putReply 2 (funcMaskByte 2), .putReply 3 (funcMaskByte 3),
   .cursorToReply, .startTransfer 4 .ram r.wLength]

/-- SET_DELAY (R236); its literal reply has no bytes and `tx_cursor` is set as R231 says of every command. -/
def setDelayOps (r : Setup) : List MicroOp := [.setDelay r.wValue, .cursorToReply, .startTransfer 0 .ram r.wLength]

/-- The two delays from their full bit delay (R236). -/
def delayOps (f : Half) : List MicroOp := [.setFullDelay f, .setHalfDelay (atLeastOne (f / 2))]

/-- The vendor GET_STATUS (R235). -/
def getStatusOps (r : Setup) : List MicroOp := [.putReplyStatus, .cursorToReply, .startTransfer 1 .ram r.wLength]

/-- I2C_IO up to its address byte, then the branch on the acknowledge and the reply (R240, R241). -/
def i2cIoOps (beginFlag endFlag : Bool) (r : Setup) : List MicroOp :=
  [.clearWriteFail, .i2cCmd (if beginFlag then startWord else rstartWord),
   .i2cCmd (writeWord (addressByte (ioTarget r) (ioRead r))),
   .ioAddress beginFlag endFlag (ioRead r) (ioTarget r) r.wLength, .ioReply (ioRead r) r.wLength]

/-- I2C_IO after its address byte (R242, R243). -/
def ioAddressOps (ack beginFlag endFlag rd : Bool) (addr : BitVec 7) (n : Half) : List MicroOp :=
  if ack then
    [.setStatus .addressAcked, .setRemaining n, .setBegin beginFlag, .setEnd endFlag, .setRd rd, .setIoAddr addr] ++
      (if endFlag && n == 0 then [.i2cCmd stopWord] else [])
  else [.setStatus .addressNacked, .setRemaining 0, .i2cCmd stopWord]

/-- I2C_IO's reply: the callback sentinel where a read has data left, else the literal length 0, with `tx_cursor` set as
R231 says (R244). -/
def ioReplyOps (s : State) (rd : Bool) (wl : Half) : List MicroOp :=
  if rd && s.bridge.remaining != 0 then [.startTransfer Config.replySentinel .ram wl]
  else [.cursorToReply, .startTransfer 0 .ram wl]

/-- The write callback on the m payload bytes of `rx_buf[k]` (R250, R253). -/
def writeCallbackOps (s : State) (k : Bool) (m : Nat) : List MicroOp :=
  if s.bridge.status = .addressAcked then [.writeLoop k m 0] else []

/-- The write callback's loop at byte j: the byte is written, its acknowledge noted and the counter decremented, until
the payload or the counter ends; then the stop where due (R250, R251). -/
def writeLoopOps (s : State) (k : Bool) (m j : Nat) : List MicroOp :=
  if j < m ∧ s.bridge.remaining ≠ 0 then
    [.i2cCmd (writeWord (payloadByte (rxBuf s k) j)), .noteWriteAck, .decRemaining, .writeLoop k m (j + 1)]
  else [.stopIfDone j]

/-- The end of a refill that put k payload bytes in `tx_buf` (R160, R161, R165, R166). -/
def refillEndOps (k : Nat) : List MicroOp :=
  [.subTotal k, .toggleTxPid, .appendCrc k [], .endIfShort k, .setTxLen (BitVec.ofNat 8 (k + 3))]

/-- `append_crc(k)`: the k payload bytes are read, then the two bytes of their CRC16 are written (R165). -/
def appendCrcOps (s : State) (k : Nat) (read : List Byte) : List MicroOp :=
  if read.length < k then [.appendCrc k (read ++ [payloadByte s.usb.txBuf read.length])]
  else [.putTxByte k (lo8 (crc16 read)), .putTxByte (k + 1) (hi8 (crc16 read))]

/-- `refill()` (R160): the payload from the active source (R162 to R164), then the packet's end. -/
def refillOps (s : State) : List MicroOp :=
  let cap := capacity s
  match s.usb.txState with
  | .idle => []
  | .ram => (List.range cap).map .copyRam ++ [.advanceCursor cap] ++ refillEndOps cap
  | .rom => (List.range cap).map .copyRom ++ [.advanceCursor cap] ++ refillEndOps cap
  | .callback => [.readCallback cap]

/-- `read_callback(cap)` and the end of the refill it serves (R245, R248). -/
def readCallbackOps (s : State) (cap : Nat) : List MicroOp :=
  if s.bridge.status = .addressAcked then
    let k := min cap s.bridge.remaining.toNat
    (List.range k).map .readByte ++ [.stopIfDone k] ++ refillEndOps k
  else
    let k := Config.nakReadFill cap
    (List.range k).map (fun i => .putTxByte i 0) ++ refillEndOps k

/-- One byte of a read callback: NAKed exactly when it is the transaction's last (R246). -/
def readByteOps (s : State) (i : Nat) : List MicroOp :=
  [.i2cCmd (readWord (s.bridge.remaining == 1)), .takeByte i, .decRemaining]

/-- `s1_setup` (R152). -/
def s1SetupOps (k : Bool) (n : Nat) : List MicroOp :=
  [.setTxLen 0, .setTxState .idle] ++ (if n = 8 then [.setTxPid 0xC3, .readSetup k []] else [])

/-- The SETUP payload is read byte by byte, then dispatched (R107, R152). -/
def readSetupOps (s : State) (k : Bool) (read : List Byte) : List MicroOp :=
  let payload := read ++ [payloadByte (rxBuf s k) read.length]
  if payload.length < 8 then [.readSetup k payload] else [.dispatch payload]

/-- `s1_out` (R153). -/
def s1OutOps (k : Bool) (n : Nat) : List MicroOp :=
  if n = 0 then [.setTxLen 0, .setTxState .idle]
  else if Config.writeCallback then [.writeCallback k n] else []

/-- S1 after its snapshot (R151, R154). -/
def s1TakeOps (len : Byte) (k : Bool) (token : Byte) : List MicroOp :=
  if len = 0 then [.goto .s2]
  else
    let n := (len - 3).toNat
    (if token = 0x2D then s1SetupOps k n else s1OutOps k n) ++ [.setRxLen 0, .goto .s2]

/-- S2 after its snapshot (R160). -/
def s2TakeOps (s : State) (len : Byte) : List MicroOp :=
  (if refillDue s len then refillOps s else []) ++ [.addressCommit, .goto .s3]

/-- `address_commit()`: the test, then its two assignments (R167). -/
def addressCommitOps (s : State) : List MicroOp :=
  if commitDue s then [.setAddress s.usb.newAddress, .setAddrPending false] else []

/-- `bus_reset()` (R170). -/
def busResetOps : List MicroOp :=
  [.intMask, .setRxLen 0, .setTxLen 0, .setTxState .idle, .setTxTotal 0, .setAddress 0, .setNewAddress 0,
   .setAddrPending false, .clearToggle, .calibrateOnce, .intUnmask]

/-- S3's sampling loop after one sample (R169). -/
def sampleDmOps (s : State) (left : Nat) : List MicroOp :=
  if readLine s .dm then [.goto .s1]
  else if left ≤ 1 then busResetOps ++ [.goto .s1]
  else [.sampleDm (left - 1)]

/-- The program of each phase of POLL: the boot sequence after the POR values (R351), and S1, S2, S3 (R150). -/
def phaseOps : PollPhase → List MicroOp
  | .boot => [.calCmd 2, .attach, .intUnmask, .goto .s1]
  | .s1 => [.intMask, .s1Len]
  | .s2 => [.intMask, .s2Len]
  | .s3 => [.sampleDm Config.resetSamples]

/-! ### One atomic step -/

/-- What an atomic step answers. -/
inductive OpResult where
  /-- It is done; `more` are the steps it leads to. -/
  | go (more : List MicroOp) (s : State)
  /-- It waits: only the environment or the ISR can lift it (R13, R332). -/
  | hold
  /-- It raises a model fault (R13, R331). -/
  | fault (f : Fault)

/-- An atomic step that leads to no further ones. -/
def done (s : State) : OpResult := .go [] s

/-- The steps of a command, a reserved one raising its fault (R126, R286, R333). -/
def issue (ops : Option (List MicroOp)) (s : State) : OpResult :=
  match ops with
  | some more => .go more s
  | none => .fault .reservedCommand

/-- What one atomic step of POLL does. `dispatch` is performed by `step` alone, which decodes the request and
runs its meaning, and is handed back here. -/
def microStep (op : MicroOp) (s : State) : OpResult :=
  match op with
  | .intMask => done { s with irq.enable := false }
  | .intUnmask => done { s with irq.enable := true }
  | .attach => done s
  | .goto p => done { s with poll.phase := p }
  | .s1Len => .go [.s1Sel s.usb.rxLen] s
  | .s1Sel len => .go [.s1Token len s.usb.rxSel] s
  | .s1Token len k => .go [.intUnmask, .s1Take len k s.usb.rxToken] s
  | .s1Take len k token => .go (s1TakeOps len k token) s
  | .setTxLen n => done { s with usb.txLen := n }
  | .setTxState st => done { s with usb.txState := st }
  | .setTxPid pid => done (putTx 0 pid s)
  | .readSetup k read => .go (readSetupOps s k read) s
  | .dispatch _ => .hold
  | .setRxLen n => done { s with usb.rxLen := n }
  | .writeCallback k m => .go (writeCallbackOps s k m) s
  | .writeLoop k m j => .go (writeLoopOps s k m j) s
  | .s2Len => .go [.intUnmask, .s2Take s.usb.txLen] s
  | .s2Take len => .go (s2TakeOps s len) s
  | .copyRam i => .go [.putTxByte i (ramByte s (cursorAddr s i))] s
  | .copyRom i => .go [.putTxByte i (romByte (cursorAddr s i))] s
  | .advanceCursor n => done { s with usb.txCursor := cursorAddr s n }
  | .readCallback cap => .go (readCallbackOps s cap) s
  | .putTxByte i b => done (putTx (1 + i) b s)
  | .readByte i => .go (readByteOps s i) s
  | .takeByte i => done (putTx (1 + i) s.pins.byte s)
  | .decRemaining => done (decRemaining s)
  | .stopIfDone moved => .go (if stopDue s moved then [.i2cCmd stopWord] else []) s
  | .subTotal k => done { s with usb.txTotal := s.usb.txTotal - BitVec.ofNat 8 k }
  | .toggleTxPid => .go [.setTxPid (s.usb.txBuf[0] ^^^ 0x88)] s
  | .appendCrc k read => .go (appendCrcOps s k read) s
  | .endIfShort k => done (if k < Config.maxPayload then { s with usb.txState := .idle } else s)
  | .addressCommit => .go (addressCommitOps s) s
  | .setAddrPending b => done { s with usb.addrPending := b }
  | .sampleDm left => .go (sampleDmOps s left) s
  | .setAddress a => done { s with usb.address := a }
  | .clearToggle => done { s with usb.rxLastToggle := none }
  | .calibrateOnce => .go (if s.cal.done then [] else [.calCmd 1]) s
  | .putReply i b => done (putReply i b s)
  | .putReplyStatus => done (putReply 0 (statusCode s.bridge.status) s)
  | .setCursor a => done { s with usb.txCursor := a }
  | .cursorToReply => done (cursorToReply s)
  | .startTransfer r src wl => .go (startTransferOps r src wl) s
  | .setTxTotal n => done { s with usb.txTotal := n }
  | .setNewAddress a => done { s with usb.newAddress := a }
  | .getDescriptor dtype dindex wi wl digits => .go (getDescriptorOps s dtype dindex wi wl digits) s
  | .setDelay d => .go (delayOps (atLeastOne (Config.delayScale d))) s
  | .setFullDelay f => done { s with bridge.fullDelay := f }
  | .setHalfDelay h => done { s with bridge.halfDelay := h }
  | .clearWriteFail => done { s with bridge.writeFail := false }
  | .ioAddress b e rd a n => .go (ioAddressOps s.pins.ack b e rd a n) s
  | .setStatus st => done { s with bridge.status := st }
  | .setRemaining n => done { s with bridge.remaining := n }
  | .setBegin b => done { s with bridge.beginFlag := b }
  | .setEnd b => done { s with bridge.endFlag := b }
  | .setRd b => done { s with bridge.rd := b }
  | .setIoAddr a => done { s with bridge.addr := a }
  | .ioReply rd wl => .go (ioReplyOps s rd wl) s
  | .noteWriteAck => done (if s.pins.ack then s else { s with bridge.writeFail := true })
  | .i2cCmd w => issue (i2cCmdOps w) s
  | .rstartCheck => if s.pins.sclDir = .output then done s else .fault .i2cRstartUndefined
  | .setDirection l m => done (setDirection (.i2c l) m s)
  | .setLine l v => done (setLine (.i2c l) v s)
  | .delay d => done (delayStep d s)
  | .waitScl => if readLine s (.i2c .scl) then done s else .hold
  | .sampleAck => done { s with pins.ack := !readLine s (.i2c .sda) }
  | .clearByte => done { s with pins.byte := 0 }
  | .sampleBit i => done { s with pins.byte := withBit s.pins.byte i (readLine s (.i2c .sda)) }
  | .calCmd w => issue (calCmdOps w) s
  | .calLoad => .go (calLoadOps (nvRead s .trim)) s
  | .setTrim v => done { s with cal.oscTrim := v }
  | .setCalDone b => done { s with cal.done := b }
  | .calStart => done { s with cal.trial := 0 }
  | .setCalStep st => done { s with cal.step := st }
  | .calTry => done { s with cal.oscTrim := s.cal.trial + s.cal.step }
  | .measureStart => done { s with env.marker := none }
  | .measureOpen =>
    match s.env.marker with
    | some _ => done { s with env.marker := none }
    | none => .hold
  | .measureEnd =>
    match s.env.marker with
    | some err => done { s with cal.count := measured s err, env.marker := none }
    | none => .hold
  | .calKeep => done (calKeep s)
  | .calNeighbours => .go (calNeighbourOps s.cal.trial) { s with cal.bestDev := none }
  | .calCompare t => .go (calCompareOps s t) s
  | .setBest t => done { s with cal.best := t }
  | .setBestDev d => done { s with cal.bestDev := some d }
  | .trimBest => done { s with cal.oscTrim := s.cal.best }
  | .nvBest => done (nvWrite .trim s.cal.best s)

/-! ### Running an operation -/

/-- The operation stops here and its remaining steps stay POLL's continuation (R22). -/
def suspend (ops : List MicroOp) (s : State) : State := { s with poll.cont := ops ++ s.poll.cont }

/-- Runs POLL's atomic steps until they are done. It stops early, leaving the rest as POLL's continuation, where the
interrupt is due (R322: checked before each step) or where a step holds. The first argument bounds how many steps
one call takes; what is left then stays the continuation too, so no behaviour is cut. -/
def runOps : Nat → List MicroOp → State → Host.Outcome State Fault Refusal
  | _, [], s => .next s
  | 0, op :: rest, s => .next (suspend (op :: rest) s)
  | n + 1, op :: rest, s =>
    if interruptDue s then .next (suspend (op :: rest) s)
    else
      match microStep op s with
      | .go more s' => runOps n (more ++ rest) (tick s')
      | .hold => .next (suspend (op :: rest) (tick s))
      | .fault f => .fault f

/-- How many atomic steps one call of a meaning takes at most (log entry 21). The longest instruction, a GET_DESCRIPTOR of
254 bytes composed in RAM, takes 261 when nothing interrupts it. -/
def opFuel : Nat := 512

/-- The meaning of an instruction that POLL runs: its atomic steps. -/
def runInstr (ops : List MicroOp) (s : State) : Host.Outcome State Fault Refusal := runOps opFuel ops s

end Sys2Proof.Machine
end

