-- ==== Sys2Proof/Machine/Calibrator.lean ====
section
/-! DEFINITION. The meanings of the calibrator's commands (R302 to R306, R333). -/

namespace Sys2Proof.Machine

/-- Command 0 is reserved: Fault(ReservedCommand) (R126, R333). -/
def execCalReserved0 (_s : State) : Host.Outcome State Fault Refusal := .fault .reservedCommand

/-- CAL_RUN: the binary search, the neighbourhood search and the result (R302 to R305). -/
def execCalRun (s : State) : Host.Outcome State Fault Refusal := runInstr calRunOps s

/-- CAL_LOAD: the boot load of the stored trim (R306). -/
def execCalLoad (s : State) : Host.Outcome State Fault Refusal := runInstr [.calLoad] s

/-- Command 3 is reserved: Fault(ReservedCommand) (R126, R333). -/
def execCalReserved3 (_s : State) : Host.Outcome State Fault Refusal := .fault .reservedCommand

end Sys2Proof.Machine
end

