-- ==== Sys2Proof/Machine/ClassRequest.lean ====
section
/-! DEFINITION. The meanings of the class requests (R230 to R244), bmRequestType[6:5] = 1: a class request decodes and acts as the vendor request of the same code (R200). Each is the command and the transfer
it starts (R200, R203), as POLL's atomic steps. -/

namespace Sys2Proof.Machine

/-- ECHO: the two bytes of wValue, in wire order (R233). -/
def execClassEcho (r : Setup) (s : State) : Host.Outcome State Fault Refusal := runInstr (echoOps r) s

/-- GET_FUNC: the 4-byte little-endian capability mask (R234). -/
def execClassGetFunc (r : Setup) (s : State) : Host.Outcome State Fault Refusal := runInstr (getFuncOps r) s

/-- SET_DELAY: the two bit delays from wValue; no reply (R236). -/
def execClassSetDelay (r : Setup) (s : State) : Host.Outcome State Fault Refusal := runInstr (setDelayOps r) s

/-- GET_STATUS: the status of the last address phase (R235). -/
def execClassGetStatus (r : Setup) (s : State) : Host.Outcome State Fault Refusal := runInstr (getStatusOps r) s

/-- I2C_IO: the start condition, the address byte and what its acknowledge decides (R240 to R244). -/
def execClassI2cIo (beginFlag endFlag : Bool) (r : Setup) (s : State) : Host.Outcome State Fault Refusal :=
  runInstr (i2cIoOps beginFlag endFlag r) s

/-- An unknown command: silently ignored, a zero-length reply (R124, R232). -/
def execClassUnknown (_req : Byte) (r : Setup) (s : State) : Host.Outcome State Fault Refusal :=
  runInstr (emptyReplyOps r.wLength) s

end Sys2Proof.Machine
end

