-- ==== Sys2Proof/Machine/I2c.lean ====
section
/-! DEFINITION. The meanings of the I2C sequencer's commands (R280 to R286). -/

namespace Sys2Proof.Machine

/-- Op 0 is reserved: Fault(ReservedCommand) (R126, R286). -/
def execI2cReserved0 (_data : Byte) (_s : State) : Host.Outcome State Fault Refusal := .fault .reservedCommand

/-- START (R280). -/
def execI2cStart (_data : Byte) (s : State) : Host.Outcome State Fault Refusal := runInstr startOps s

/-- RSTART; it faults where the master does not hold SCL low (R281). -/
def execI2cRstart (_data : Byte) (s : State) : Host.Outcome State Fault Refusal := runInstr rstartOps s

/-- STOP (R282). -/
def execI2cStop (_data : Byte) (s : State) : Host.Outcome State Fault Refusal := runInstr stopOps s

/-- WRITE of a byte; the acknowledge is its result (R283). -/
def execI2cWrite (data : Byte) (s : State) : Host.Outcome State Fault Refusal := runInstr (writeOps data) s

/-- READ of a byte, acknowledged (R284). -/
def execI2cReadAck (_data : Byte) (s : State) : Host.Outcome State Fault Refusal := runInstr (readOps false) s

/-- READ of the last byte, not acknowledged (R284). -/
def execI2cReadNak (_data : Byte) (s : State) : Host.Outcome State Fault Refusal := runInstr (readOps true) s

/-- Op 7 is reserved: Fault(ReservedCommand) (R126, R286). -/
def execI2cReserved7 (_data : Byte) (_s : State) : Host.Outcome State Fault Refusal := .fault .reservedCommand

end Sys2Proof.Machine
end

