-- ==== Sys2Proof/Machine/Standard.lean ====
section
/-! DEFINITION. The meanings of the standard requests (R205 to R210) and of the reserved request type (R202). Each is the
handler and the transfer it starts (R200, R203), as POLL's atomic steps. -/

namespace Sys2Proof.Machine

/-- GET_STATUS: the 2 bytes of the self-powered status (R205). -/
def execStdGetStatus (r : Setup) (s : State) : Host.Outcome State Fault Refusal :=
  runInstr [.putReply 0 selfPoweredByte, .putReply 1 0, .cursorToReply, .startTransfer 2 .ram r.wLength] s

/-- SET_ADDRESS: the pending address, not applied yet (R206). -/
def execStdSetAddress (r : Setup) (s : State) : Host.Outcome State Fault Refusal :=
  runInstr (setAddressOps r) s

/-- GET_DESCRIPTOR: what DESCRIPTORS gives for the type, index and language (R207). -/
def execStdGetDescriptor (r : Setup) (s : State) : Host.Outcome State Fault Refusal :=
  runInstr [.getDescriptor (descriptorType r) (descriptorIndex r) r.wIndex r.wLength []] s

/-- GET_CONFIGURATION: the one byte CONFIG_VALUE (R208). -/
def execStdGetConfiguration (r : Setup) (s : State) : Host.Outcome State Fault Refusal :=
  runInstr [.putReply 0 Config.configValue, .cursorToReply, .startTransfer 1 .ram r.wLength] s

/-- GET_INTERFACE: the one byte 0, the alternate setting (R209). -/
def execStdGetInterface (r : Setup) (s : State) : Host.Outcome State Fault Refusal :=
  runInstr [.putReply 0 0, .cursorToReply, .startTransfer 1 .ram r.wLength] s

/-- CLEAR_FEATURE: unhandled, a zero-length reply and no other change (R125, R210). -/
def execStdClearFeature (r : Setup) (s : State) : Host.Outcome State Fault Refusal := runInstr (emptyReplyOps r.wLength) s

/-- SET_FEATURE: unhandled, a zero-length reply and no other change (R125, R210). -/
def execStdSetFeature (r : Setup) (s : State) : Host.Outcome State Fault Refusal := runInstr (emptyReplyOps r.wLength) s

/-- SET_DESCRIPTOR: unhandled, a zero-length reply and no other change (R125, R210). -/
def execStdSetDescriptor (r : Setup) (s : State) : Host.Outcome State Fault Refusal := runInstr (emptyReplyOps r.wLength) s

/-- SET_CONFIGURATION: unhandled, a zero-length reply and no other change (R125, R210). -/
def execStdSetConfiguration (r : Setup) (s : State) : Host.Outcome State Fault Refusal := runInstr (emptyReplyOps r.wLength) s

/-- SET_INTERFACE: unhandled, a zero-length reply and no other change (R125, R210). -/
def execStdSetInterface (r : Setup) (s : State) : Host.Outcome State Fault Refusal := runInstr (emptyReplyOps r.wLength) s

/-- SYNCH_FRAME: unhandled, a zero-length reply and no other change (R125, R210). -/
def execStdSynchFrame (r : Setup) (s : State) : Host.Outcome State Fault Refusal := runInstr (emptyReplyOps r.wLength) s

/-- A standard request without a row of its own: unhandled, a zero-length reply and no other change (R125, R210). -/
def execStdOther (_req : Byte) (r : Setup) (s : State) : Host.Outcome State Fault Refusal :=
  runInstr (emptyReplyOps r.wLength) s

/-- The reserved request type is not forwarded to the bridge: a zero-length reply and no other change (R202). -/
def execReservedType (_req : Byte) (r : Setup) (s : State) : Host.Outcome State Fault Refusal :=
  runInstr (emptyReplyOps r.wLength) s

end Sys2Proof.Machine
end

