-- ==== Sys2Proof/Machine/UsbPid.lean ====
section
/-! DEFINITION. The meanings of the USB PIDs as the first packet of a transaction (R143 to R149). The ISR runs them, each
to completion (R81); data and handshake packets have their effect inside the transaction that a token starts
(R145, R148) and are ignored as a first packet (R149). -/

namespace Sys2Proof.Machine

/-- OUT: the data packet after it is captured, unless the token fails its filter (R143, R144, R145). -/
def execOutToken (addr : BitVec 7) (endp : BitVec 4) (crc : BitVec 5) (s : State) : Host.Outcome State Fault Refusal :=
  .next (if tokenOk s addr endp crc then isrSetupOut 0xE1 s else isrDone s)

/-- IN: the packet that waits, or NAK, unless the token fails its filter (R143, R144, R148). -/
def execInToken (addr : BitVec 7) (endp : BitVec 4) (crc : BitVec 5) (s : State) : Host.Outcome State Fault Refusal :=
  .next (if tokenOk s addr endp crc then isrIn s else isrDone s)

/-- SOF: ignored (R122, R149). -/
def execSof (_frame : BitVec 11) (_crc : BitVec 5) (s : State) : Host.Outcome State Fault Refusal := .next (isrDone s)

/-- SETUP: the data packet after it is captured, unless the token fails its filter (R143, R144, R145). -/
def execSetupToken (addr : BitVec 7) (endp : BitVec 4) (crc : BitVec 5) (s : State) :
    Host.Outcome State Fault Refusal :=
  .next (if tokenOk s addr endp crc then isrSetupOut 0x2D s else isrDone s)

/-- DATA0 without a token before it: never stored (R122, R149). -/
def execData0 (_payload : List Byte) (_crc : Half) (s : State) : Host.Outcome State Fault Refusal := .next (isrDone s)

/-- DATA1 without a token before it: never stored (R122, R149). -/
def execData1 (_payload : List Byte) (_crc : Half) (s : State) : Host.Outcome State Fault Refusal := .next (isrDone s)

/-- ACK as a first packet: ignored (R122, R149). -/
def execAck (s : State) : Host.Outcome State Fault Refusal := .next (isrDone s)

/-- NAK as a first packet: ignored (R122, R149). -/
def execNak (s : State) : Host.Outcome State Fault Refusal := .next (isrDone s)

/-- STALL as a first packet: ignored (R122, R149). -/
def execStall (s : State) : Host.Outcome State Fault Refusal := .next (isrDone s)

/-- PRE: ignored (R122, R149). -/
def execPre (s : State) : Host.Outcome State Fault Refusal := .next (isrDone s)

end Sys2Proof.Machine
end

