-- ==== Sys2Proof/Machine/Dispatch.lean ====
section
/-! DEFINITION. The meaning of every instruction: one arm per constructor of Instr, each one call. -/

namespace Sys2Proof.Machine

def exec (i : Instr) (s : State) : Host.Outcome State Fault Refusal :=
  match i with
  | .outToken a e c => Sys2Proof.Machine.execOutToken a e c s
  | .inToken a e c => Sys2Proof.Machine.execInToken a e c s
  | .sof f c => Sys2Proof.Machine.execSof f c s
  | .setupToken a e c => Sys2Proof.Machine.execSetupToken a e c s
  | .data0 p c => Sys2Proof.Machine.execData0 p c s
  | .data1 p c => Sys2Proof.Machine.execData1 p c s
  | .ack => Sys2Proof.Machine.execAck s
  | .nak => Sys2Proof.Machine.execNak s
  | .stall => Sys2Proof.Machine.execStall s
  | .pre => Sys2Proof.Machine.execPre s
  | .stdGetStatus r => Sys2Proof.Machine.execStdGetStatus r s
  | .stdClearFeature r => Sys2Proof.Machine.execStdClearFeature r s
  | .stdSetFeature r => Sys2Proof.Machine.execStdSetFeature r s
  | .stdSetAddress r => Sys2Proof.Machine.execStdSetAddress r s
  | .stdGetDescriptor r => Sys2Proof.Machine.execStdGetDescriptor r s
  | .stdSetDescriptor r => Sys2Proof.Machine.execStdSetDescriptor r s
  | .stdGetConfiguration r => Sys2Proof.Machine.execStdGetConfiguration r s
  | .stdSetConfiguration r => Sys2Proof.Machine.execStdSetConfiguration r s
  | .stdGetInterface r => Sys2Proof.Machine.execStdGetInterface r s
  | .stdSetInterface r => Sys2Proof.Machine.execStdSetInterface r s
  | .stdSynchFrame r => Sys2Proof.Machine.execStdSynchFrame r s
  | .stdOther q r => Sys2Proof.Machine.execStdOther q r s
  | .vendorEcho r => Sys2Proof.Machine.execVendorEcho r s
  | .vendorGetFunc r => Sys2Proof.Machine.execVendorGetFunc r s
  | .vendorSetDelay r => Sys2Proof.Machine.execVendorSetDelay r s
  | .vendorGetStatus r => Sys2Proof.Machine.execVendorGetStatus r s
  | .vendorI2cIo b e r => Sys2Proof.Machine.execVendorI2cIo b e r s
  | .vendorUnknown q r => Sys2Proof.Machine.execVendorUnknown q r s
  | .classEcho r => Sys2Proof.Machine.execClassEcho r s
  | .classGetFunc r => Sys2Proof.Machine.execClassGetFunc r s
  | .classSetDelay r => Sys2Proof.Machine.execClassSetDelay r s
  | .classGetStatus r => Sys2Proof.Machine.execClassGetStatus r s
  | .classI2cIo b e r => Sys2Proof.Machine.execClassI2cIo b e r s
  | .classUnknown q r => Sys2Proof.Machine.execClassUnknown q r s
  | .reservedType q r => Sys2Proof.Machine.execReservedType q r s
  | .i2cReserved0 d => Sys2Proof.Machine.execI2cReserved0 d s
  | .i2cStart d => Sys2Proof.Machine.execI2cStart d s
  | .i2cRstart d => Sys2Proof.Machine.execI2cRstart d s
  | .i2cStop d => Sys2Proof.Machine.execI2cStop d s
  | .i2cWrite d => Sys2Proof.Machine.execI2cWrite d s
  | .i2cReadAck d => Sys2Proof.Machine.execI2cReadAck d s
  | .i2cReadNak d => Sys2Proof.Machine.execI2cReadNak d s
  | .i2cReserved7 d => Sys2Proof.Machine.execI2cReserved7 d s
  | .calReserved0 => Sys2Proof.Machine.execCalReserved0 s
  | .calRun => Sys2Proof.Machine.execCalRun s
  | .calLoad => Sys2Proof.Machine.execCalLoad s
  | .calReserved3 => Sys2Proof.Machine.execCalReserved3 s

end Sys2Proof.Machine
end

