-- ==== Sys2Proof/Machine/Fetch.lean ====
section
/-! DEFINITION. Where the next instruction comes from: which of the four ports the machine reads next and with what
bytes (R131), and what it does where it reads none. -/

namespace Sys2Proof.Machine

/-- What the machine does next. -/
inductive Action where
  /-- The ISR has nothing more to receive: it returns (R323). -/
  | isrReturn (s : State)
  /-- The ISR found no packet: `isr_body` returns with no effect (R143, R149). -/
  | isrIgnore (s : State)
  /-- The interrupt is taken (R322). -/
  | interrupt (s : State)
  /-- An instruction is read at a port; `s` is the state it runs in, past its bytes. -/
  | run (port : Port) (bytes : List Byte) (s : State)
  /-- POLL takes an atomic step that is no instruction; `rest` is what it continues with. -/
  | micro (op : MicroOp) (rest : List MicroOp) (s : State)
  deriving DecidableEq, Repr

/-- POLL's steps from here: its continuation, or the program of its phase where it has none (R150, R351). -/
def pollSteps (s : State) : List MicroOp := if s.poll.cont = [] then phaseOps s.poll.phase else s.poll.cont

/-- What POLL does next, its first step taken off its continuation. -/
def pollAction (s : State) : Action :=
  match pollSteps s with
  | [] => .micro .attach [] s
  | op :: rest =>
    let s0 := { s with poll.cont := rest }
    match op with
    | .dispatch payload => .run .request payload s0
    | .i2cCmd w => .run .i2c (i2cWordBytes w) s0
    | .calCmd w => .run .cal (calWordBytes w) s0
    | op => .micro op rest s0

/-- What the ISR does next (R143, R323). -/
def isrAction (s : State) : Action :=
  match s.irq.rx with
  | [] => .isrReturn s
  | p :: rest =>
    match p.received with
    | none => .isrIgnore s
    | some bytes => .run .usb bytes { s with irq.rx := rest }

/-- What the machine does next: the ISR runs to completion before POLL resumes (R81), and the interrupt is checked
before each step of POLL (R322). -/
def nextAction (s : State) : Action :=
  if s.irq.active then isrAction s
  else if interruptDue s then .interrupt s
  else pollAction s

/-- An atomic step of POLL outside an instruction: its further steps go in front of the rest; where it holds, it is
tried again (R13). The environment moves after it (R81). -/
def pollMicro (op : MicroOp) (rest : List MicroOp) (s : State) : Host.Outcome State Fault Refusal :=
  match microStep op s with
  | .go more s' => .next (tick { s' with poll.cont := more ++ rest })
  | .hold => .next (tick { s with poll.cont := op :: rest })
  | .fault f => .fault f

/-- What follows an instruction: the environment moves once after a packet of the ISR (R322), as it has moved after each
atomic step of an instruction of POLL. -/
def afterRun (port : Port) (out : Host.Outcome State Fault Refusal) : Host.Outcome State Fault Refusal :=
  match port, out with
  | .usb, .next t => .next (tick t)
  | _, out => out

/-- Bytes that spell no instruction are dropped: the ISR's with no response (R121, R143); POLL's ports never give
any. -/
def dropBytes (port : Port) (s : State) : State :=
  match port with
  | .usb => tick (isrDone s)
  | _ => tick s

/-- An instruction's bytes placed where the machine fetches next. On the USB port: the ISR is active and this packet is
the next it receives. On the request port: POLL has read this SETUP payload and is about to dispatch it. On the
command ports: POLL is about to issue the command. What POLL was about to do stays behind it. -/
def placeInstruction (port : Port) (bytes : List Byte) (s : State) : State :=
  match port with
  | .usb => { s with irq.active := true, irq.rx := [.bytes bytes] }
  | .request =>
    { s with
      irq.active := false, irq.pending := false, irq.rx := []
      poll.cont := .dispatch bytes :: pollSteps s }
  | .i2c =>
    { s with
      irq.active := false, irq.pending := false, irq.rx := []
      poll.cont := .i2cCmd ((bytes.getD 1 0).extractLsb' 0 3 ++ bytes.getD 0 0) :: pollSteps s }
  | .cal =>
    { s with
      irq.active := false, irq.pending := false, irq.rx := []
      poll.cont := .calCmd ((bytes.getD 0 0).extractLsb' 0 2) :: pollSteps s }

end Sys2Proof.Machine
end

