-- ==== Sys2Proof/Machine/Step.lean ====
section
/-! DEFINITION. One step of the machine, and an instruction placed where the next step fetches it. -/

namespace Sys2Proof.Machine

/-- One step: the ISR's return, the taking of the interrupt, one atomic step of POLL, or one instruction read at one of
the four ports, which the decoder reads and exec runs; the environment moves after it (R81, R322). -/
def step (s : State) : Host.Outcome State Fault Refusal :=
  match nextAction s with
  | .isrReturn s0 => .next (tick (interruptReturn s0))
  | .isrIgnore s0 => .next (tick (isrDone s0))
  | .interrupt s0 => .next (tick (interruptEntry s0))
  | .micro op rest s0 => pollMicro op rest s0
  | .run port bytes s0 =>
    match decode port bytes with
    | .ok i => afterRun port (exec i s0)
    | .error _ => .next (dropBytes port s0)

/-- `s` with an instruction of the opcode table where the next step fetches (log entries 3 and 4). -/
def State.withFetchWord (s : State) (nbits w : Nat) : State :=
  placeInstruction (tableBytes nbits w).1 (tableBytes nbits w).2 s

end Sys2Proof.Machine
end

