-- ==== Sys2Proof/Safety.lean ====
section
/-! DEFINITION. The terms in which claims about the machine are stated: the premises on the environment, the length
clamp and the stored reply in the spec's words, the reading of the I2C master's event history, the environment's
scripts, and the invariants of a run. Nothing here is used by the machine itself. -/

namespace Sys2Proof.Machine

/-! ### Premises on the environment -/

/-- Neither environment agent moves (their scripts are empty, so both keep their present choices) and the interrupt is
not due: POLL's next steps follow one another. -/
abbrev Quiet (s : State) : Prop := s.env.host = [] ∧ s.env.bus = [] ∧ interruptDue s = false

/-- Quiet, and no slave holds SCL low: no clock-stretch wait holds (R273). -/
abbrev SclFree (s : State) : Prop := Quiet s ∧ s.env.sclLow = false

/-- POLL is between two steps of its loop, at the start of phase p, with no interrupt latched and these moves of the
environment to come. -/
abbrev AtPhaseWith (p : PollPhase) (host : List HostEvent) (bus : List BusDrive) (s : State) : Prop :=
  s.env.host = host ∧ s.env.bus = bus ∧ s.irq.pending = false ∧ s.irq.active = false ∧ s.poll.phase = p ∧ s.poll.cont = []

/-- The same with a quiet environment. -/
abbrev AtPhase (p : PollPhase) (s : State) : Prop := AtPhaseWith p [] [] s

/-- Neither the host nor the bus agent has a move left, and no edge is latched. -/
def quietened (s : State) : State := { s with env.host := [], env.bus := [], irq.pending := false }

/-- The USB lines are inputs: the block does not drive them (R142). -/
abbrev UsbReleased (s : State) : Prop := s.wire.dpDir = .input ∧ s.wire.dmDir = .input

/-- The output latches of both lines are 0: the master never drives a line high (R40, R271). -/
abbrev NeverHigh (s : State) : Prop := s.pins.sdaOut = false ∧ s.pins.sclOut = false

/-- n steps of the machine, one after the other. -/
def steps : Nat → State → Host.Outcome State Fault Refusal
  | 0, s => .next s
  | n + 1, s =>
    match step s with
    | .next t => steps n t
    | .fault f => .fault f
    | .refused r => .refused r

/-! ### Replies -/

/-- `min(r, wcap)` of R203 in its own words: a wLength of 256 or more counts as 255. -/
def clampedLength (r : Nat) (wl : Half) : Byte := BitVec.ofNat 8 (min r (if wl.toNat < 256 then wl.toNat else 255))

/-- `m'` is `m` with `bytes` stored from `reply_buf[0]` on, and no other address changed. -/
def StoresReply (m m' : Memory) (bytes : List Byte) : Prop :=
  m'.wf = true ∧
    (∀ j, j < bytes.length → m'.read (Config.replyBase + j) = bytes.getD j 0) ∧
    (∀ a, a < Config.replyBase ∨ Config.replyBase + bytes.length ≤ a → m'.read a = m.read a)

/-- What sending a packet leaves of the USB lines: the packet's line states in the history, the output levels of J, both
lines released to input (R142). -/
def transmitted (p : List Byte) (w : Wire) : Wire :=
  { dpDir := .input, dmDir := .input, dpOut := false, dmOut := true, log := (transmitWire p).reverse ++ w.log }

/-- The SETUP payload in `rx_buf[k]`: its bytes 1 to 8 (R107, R152). -/
def setupPayload (s : State) (k : Bool) : List Byte := ((rxBuf s k).toList.drop 1).take 8

/-- The three validated serial digits, from which DESCRIPTORS may compose its result (R42, R207). -/
def serialDigits (nv : Vector Byte 3) : List Byte := [serialDigit nv 0, serialDigit nv 1, serialDigit nv 2]

/-- The requests: the instructions of the SETUP port (R200). -/
def isRequest (i : Instr) : Bool := (encode i).1 == .request

/-! ### The I2C wire as the master drives it -/

/-- A bus condition (R116). -/
inductive Condition where
  | start | stop
  deriving DecidableEq, Repr

/-- The START and STOP conditions in a history, oldest event first, from the lines' first values: SDA falling or rising
while SCL is and stays high (R116). -/
def busConditions : Bool → Bool → List BusEvent → List Condition
  | _, _, [] => []
  | sda, scl, .delay _ :: rest => busConditions sda scl rest
  | sda, scl, .drive sda' scl' :: rest =>
    (if scl && scl' then (if sda && !sda' then [.start] else if !sda && sda' then [.stop] else []) else []) ++
      busConditions sda' scl' rest

/-- What SDA is at each rise of SCL, oldest event first, from SCL's first value: the bits that are clocked out (R116). -/
def clockedBits : Bool → List BusEvent → List Bool
  | _, [] => []
  | scl, .delay _ :: rest => clockedBits scl rest
  | scl, .drive sda' scl' :: rest => (if !scl && scl' then [sda'] else []) ++ clockedBits scl' rest

/-- The bits of a byte, most significant first (R75). -/
def bitsMsbFirst (b : Byte) : List Bool :=
  [b.getLsbD 7, b.getLsbD 6, b.getLsbD 5, b.getLsbD 4, b.getLsbD 3, b.getLsbD 2, b.getLsbD 1, b.getLsbD 0]

/-! ### Scripts of the environment -/

/-- A slave that sends byte b into a READ and never stretches the clock: two choices before the first bit, then eight
for each bit (a bit of the master's read takes eight atomic steps), SDA held low for a 0 bit (R274, R284). -/
def slaveScript (b : Byte) : List BusDrive :=
  List.replicate 2 ⟨false, false⟩ ++ (bitsMsbFirst b).flatMap (fun v => List.replicate 8 ⟨!v, false⟩)

/-- The bus agent's choices during a read callback that a slave answers with these bytes, `remaining` being the counter
before the first of them: for each byte the callback's own step, the slave's bits, then the ninth clock, in which the
slave holds nothing (R245, R284). -/
def readCallbackScript : Nat → List Byte → List BusDrive
  | _, [] => []
  | remaining, b :: rest =>
    [⟨false, false⟩] ++ slaveScript b ++ List.replicate (if remaining = 1 then 10 else 11) ⟨false, false⟩ ++
      readCallbackScript (remaining - 1) rest

/-- The host's moves during one measurement, so that it counts M at trim t: a frame marker that opens it and one that
ends it, with the error that makes the count M t (R300). -/
def measureScript (M : Byte → Half) (t : Byte) : List HostEvent :=
  [.keepAlive 0, .keepAlive (M t - Config.frameCount t), .idle]

/-- The steps of the binary search (R302). -/
def searchSteps : List Byte := [128, 64, 32, 16, 8, 4, 2, 1]

/-- One step of the binary search on counts M: kept where the count is below the target (R303). -/
def searchStep (M : Byte → Half) (trial step : Byte) : Byte :=
  if (M (trial + step)).toNat < Config.frameTarget.toNat then trial + step else trial

/-- `cal_trial` after the binary search on counts M. -/
def searchTrial (M : Byte → Half) : Byte := searchSteps.foldl (searchStep M) 0

/-- The host's moves during the binary search from a trial value. -/
def searchScript (M : Byte → Half) : Byte → List Byte → List HostEvent
  | _, [] => []
  | trial, step :: rest =>
    [.idle, .idle] ++ measureScript M (trial + step) ++ [.idle] ++ searchScript M (searchStep M trial step) rest

/-- `dev(m)` (R301) in its own words. -/
def countDeviation (m : Half) : Nat := ((m.toNat : Int) - (Config.frameTarget.toNat : Int)).natAbs

/-- The host's moves during the neighbourhood search: two more where a candidate becomes the best (R304). -/
def neighbourScript (M : Byte → Half) : Option Nat → List Nat → List HostEvent
  | _, [] => []
  | best, t :: rest =>
    let d := countDeviation (M (BitVec.ofNat 8 t))
    let better := match best with
      | none => true
      | some b => decide (d < b)
    [.idle] ++ measureScript M (BitVec.ofNat 8 t) ++ [.idle] ++ (if better then [.idle, .idle] else []) ++
      neighbourScript M (if better then some d else best) rest

/-- The host's moves during a whole calibration whose measurements give the counts M. It ends the bus reset first: while
that is held it sends no frame markers (R300). -/
def calibrationScript (M : Byte → Half) : List HostEvent :=
  [.resetEnd] ++ searchScript M 0 searchSteps ++ [.idle] ++
    neighbourScript M none (calCandidates (searchTrial M)) ++ [.idle, .idle, .idle]

/-- The first of the candidates with the smallest deviation (R304). -/
def firstBest (M : Byte → Half) : Byte → List Nat → Byte
  | best, [] => best
  | best, t :: rest =>
    firstBest M
      (if countDeviation (M (BitVec.ofNat 8 t)) < countDeviation (M best) then BitVec.ofNat 8 t else best) rest

/-- The winner of the neighbourhood search on counts M (R304). -/
def calibrated (M : Byte → Half) : Byte :=
  match calCandidates (searchTrial M) with
  | [] => 0
  | t :: rest => firstBest M (BitVec.ofNat 8 t) rest

/-! ### The invariant of a run -/

/-- A packet length as `rx_len` and `tx_len` hold it: 0 or 3 to 11 (R26, R30). -/
def packetLength (n : Byte) : Bool := n == 0 || (3 ≤ n.toNat && n.toNat ≤ 11)

/-- The operands POLL's pending steps may have. -/
def MicroOp.ok : MicroOp → Bool
  | .setTxLen n => packetLength n
  | .setRxLen n => n == 0
  | .setLine _ v => !v
  | .readCallback cap => cap ≤ 8
  | .i2cCmd w => (i2cCmdOps w).isSome
  | .calCmd w => (calCmdOps w).isSome
  | .setFullDelay f => f != 0
  | .setHalfDelay h => h != 0
  | _ => true

/-- What every reachable state has: the RAM space in its canonical form; `rx_len` and `tx_len` a packet length (R26, R30)
and a published packet tagged SETUP or OUT (R27); both delays at least 1 (R38); no output latch high (R271);
the USB lines released between packets (R142); interrupts disabled while the ISR runs (R324); no reserved command on
its way to a port (R126). -/
structure Inv (s : State) : Prop where
  ram       : s.ram.wf = true
  rxLen     : packetLength s.usb.rxLen = true
  rxToken   : s.usb.rxLen ≠ 0 → s.usb.rxToken = 0x2D ∨ s.usb.rxToken = 0xE1
  txLen     : packetLength s.usb.txLen = true
  fullDelay : 1 ≤ s.bridge.fullDelay.toNat
  halfDelay : 1 ≤ s.bridge.halfDelay.toNat
  neverHigh : NeverHigh s
  released  : UsbReleased s
  masked    : s.irq.active = true → s.irq.enable = false
  pending   : s.poll.cont.all MicroOp.ok = true

/-! ### The transmit handoff (R84) -/

/-- POLL's steps that write `tx_buf`, or are on the way to it: a snapshot of `tx_len` that read 0 among them. -/
def MicroOp.writesTx : MicroOp → Bool
  | .setTxPid _ => true
  | .copyRam _ => true
  | .copyRom _ => true
  | .readCallback _ => true
  | .putTxByte _ _ => true
  | .readByte _ => true
  | .takeByte _ => true
  | .toggleTxPid => true
  | .appendCrc _ _ => true
  | .s2Take len => len == 0
  | _ => false

/-- A write of `tx_buf` is pending before `tx_len` is next written. -/
def claimsTx : List MicroOp → Bool
  | [] => false
  | .setTxLen _ :: _ => false
  | op :: rest => op.writesTx || claimsTx rest

/-- POLL's steps that set `tx_len` to a packet's length, or are on the way to it. -/
def MicroOp.fillsTx : MicroOp → Bool
  | .setTxLen n => n != 0
  | .s2Len => true
  | .s2Take _ => true
  | .readCallback _ => true
  | _ => false

/-- No write of `tx_buf` follows the step that hands it over. -/
def txOrdered : List MicroOp → Bool
  | [] => true
  | op :: rest => (!op.fillsTx || !claimsTx rest) && txOrdered rest

/-- While a packet waits in `tx_buf` (`tx_len` not 0), no write of `tx_buf` is pending: the ISR never sends a partly
written packet (R84). -/
structure TxHandoff (s : State) : Prop where
  exclusive : s.usb.txLen ≠ 0 → claimsTx s.poll.cont = false
  ordered   : txOrdered s.poll.cont = true

/-! ### The counter (R254) -/

/-- POLL's steps that will decrement `i2c_remaining`. -/
def MicroOp.moves : MicroOp → Bool
  | .decRemaining => true
  | .readByte _ => true
  | _ => false

/-- How many decrements of `i2c_remaining` are pending. -/
def pendingMoves (ops : List MicroOp) : Nat := ops.countP MicroOp.moves

/-- POLL's steps that load the counter, or take a share of it for a callback, or are on the way to that. -/
def MicroOp.loads : MicroOp → Bool
  | .s1Len => true
  | .s1Sel _ => true
  | .s1Token _ _ => true
  | .s1Take _ _ _ => true
  | .readSetup _ _ => true
  | .dispatch _ => true
  | .writeCallback _ _ => true
  | .writeLoop _ _ _ => true
  | .s2Len => true
  | .s2Take _ => true
  | .readCallback _ => true
  | .ioAddress _ _ _ _ _ => true
  | .setRemaining _ => true
  | _ => false

/-- No decrement is pending behind a step that loads the counter. -/
def counterOrdered : List MicroOp → Bool
  | [] => true
  | op :: rest => (!op.loads || pendingMoves rest == 0) && counterOrdered rest

/-- The pending decrements never exceed `i2c_remaining`: it never wraps (R254). -/
structure CounterOk (s : State) : Prop where
  enough  : pendingMoves s.poll.cont ≤ s.bridge.remaining.toNat
  ordered : counterOrdered s.poll.cont = true

/-! ### Masking (R289, R326) -/

/-- POLL's steps that act on the I2C master, or may lead to such a step. -/
def MicroOp.touchesMaster : MicroOp → Bool
  | .s1Take _ _ _ => true
  | .readSetup _ _ => true
  | .dispatch _ => true
  | .writeCallback _ _ => true
  | .writeLoop _ _ _ => true
  | .s2Take _ => true
  | .readCallback _ => true
  | .readByte _ => true
  | .stopIfDone _ => true
  | .ioAddress _ _ _ _ _ => true
  | .i2cCmd _ => true
  | .rstartCheck => true
  | .setDirection _ _ => true
  | .setLine _ _ => true
  | .delay _ => true
  | .waitScl => true
  | .sampleAck => true
  | .clearByte => true
  | .sampleBit _ => true
  | _ => false

/-- No step that touches the master comes before interrupts are enabled again. -/
def masterFree : List MicroOp → Bool
  | [] => true
  | .intUnmask :: _ => true
  | op :: rest => !op.touchesMaster && masterFree rest

/-- Every critical section ahead is free of the master. -/
def windowsFree : List MicroOp → Bool
  | [] => true
  | op :: rest => (op != .intMask || masterFree rest) && windowsFree rest

/-- Where POLL runs with interrupts disabled, it reaches no step of the master before it enables them (R289). -/
structure MasterUnmasked (s : State) : Prop where
  now   : s.irq.active = false → s.irq.enable = false → masterFree s.poll.cont = true
  ahead : windowsFree s.poll.cont = true

end Sys2Proof.Machine
end

