-- ==== Sys2Proof/Certificates/Slice0/Obligations.lean ====
section
/-! DEFINITION. The statements for the provers. A statement that gives the whole next state as the old one with some
fields changed is its own frame: what it does not name is unchanged. -/

open Sys2Proof Sys2Proof.Machine

/-! ### Encoding -/

/-- Decoding an encoded well-formed instruction gives it back, at every value of every operand (R102 to R109, R118,
R119). -/
def Obligations.DecodeOfEncode : Prop :=
  ∀ i : Instr, i.wellFormed = true → decode (encode i).1 (encode i).2 = .ok i

/-- Bytes that decode are the encoding of what they decode to: no two byte strings of a port spell one instruction. -/
def Obligations.EncodeOfDecode : Prop :=
  ∀ (p : Port) (bytes : List Byte) (i : Instr), decode p bytes = .ok i → encode i = (p, bytes)

/-- Words written out from the spec's tables decode to their instructions: V-TOK-4 and V-TOK-9, V-CRC-2, an ACK, V-SU-3,
V-SU-10 and V-SU-19, the sequencer's WRITE of A0 and the calibrator's CAL_RUN. -/
def Obligations.SpecWordsDecode : Prop :=
  decode .usb [0x2D, 0x05, 0xD0] = .ok (.setupToken 5 0 0x1A) ∧
  decode .usb [0xE1, 0x15, 0xEF] = .ok (.outToken 0x15 0xE 0x1D) ∧
  decode .usb [0xC3, 0x00, 0x40, 0xBF] = .ok (.data0 [0x00] 0xBF40) ∧
  decode .usb [0xD2] = .ok .ack ∧
  decode .request [0x00, 0x05, 0x05, 0x00, 0x00, 0x00, 0x00, 0x00] = .ok (.stdSetAddress ⟨false, 0, 5, 0, 0⟩) ∧
  decode .request [0x41, 0x07, 0x00, 0x00, 0x50, 0x00, 0x03, 0x00] =
    .ok (.vendorI2cIo true true ⟨false, 1, 0, 0x50, 3⟩) ∧
  decode .request [0x60, 0x04, 0x00, 0x00, 0x00, 0x00, 0x00, 0x00] = .ok (.reservedType 4 ⟨false, 0, 0, 0, 0⟩) ∧
  decode .i2c [0xA0, 0x04] = .ok (.i2cWrite 0xA0) ∧
  decode .cal [0x01] = .ok .calRun

/-- A step runs the instruction that the bytes at the machine's next port decode to: the ISR's next packet, the payload
POLL has read and is about to dispatch, or the command POLL is about to issue. After a packet of the ISR the environment
moves once (log entry 5). -/
def Obligations.StepRunsDecodedInstruction : Prop :=
  (∀ s p rest bytes i, s.irq.active = true → s.irq.rx = p :: rest → p.received = some bytes → decode .usb bytes = .ok i →
    ∃ t, exec i { s with irq.rx := rest } = .next t ∧ step s = .next (tick t)) ∧
  (∀ s payload rest i, s.irq.active = false → interruptDue s = false → pollSteps s = .dispatch payload :: rest →
    decode .request payload = .ok i → step s = exec i { s with poll.cont := rest }) ∧
  (∀ s w rest i, s.irq.active = false → interruptDue s = false → pollSteps s = .i2cCmd w :: rest →
    decode .i2c (i2cWordBytes w) = .ok i → step s = exec i { s with poll.cont := rest }) ∧
  (∀ s w rest i, s.irq.active = false → interruptDue s = false → pollSteps s = .calCmd w :: rest →
    decode .cal (calWordBytes w) = .ok i → step s = exec i { s with poll.cont := rest })

/-- The ISR drops, with no response, no packet at all, an empty one, one whose PID byte fails its check nibble, a token of
another length than 3 bytes, and every packet, of whatever length, whose PID is none of SETUP, OUT and IN: the other
PIDs of the table, data and handshakes of a bad length, and the PIDs the table does not list (R104, R122, R123, R143,
R144, R149). The environment moves after it (log entry 5). -/
def Obligations.BadFirstPacketDropped : Prop :=
  ∀ s p rest, s.irq.active = true → s.irq.rx = p :: rest →
    (p.received = none ∨ p.received = some [] ∨
      (∃ pid tl, p.received = some (pid :: tl) ∧ pid.extractLsb' 4 4 ≠ ~~~(pid.extractLsb' 0 4)) ∨
      (∃ pid tl, p.received = some (pid :: tl) ∧ (pid = 0x2D ∨ pid = 0xE1 ∨ pid = 0x69) ∧ tl.length ≠ 2) ∨
      (∃ pid tl, p.received = some (pid :: tl) ∧ pid ≠ 0x2D ∧ pid ≠ 0xE1 ∧ pid ≠ 0x69)) →
    step s = .next (tick { s with irq.rx := [] })

/-- The CRC16 of a payload changes when any one bit of it changes (R106, R123). -/
def Obligations.CrcCatchesBitFlip : Prop :=
  ∀ (p : List Byte) (j i : Nat), j < p.length → i < 8 →
    crc16 (p.set j (p.getD j 0 ^^^ BitVec.twoPow 8 i)) ≠ crc16 p

/-- What the device puts on the wire for a packet of up to 11 bytes, its receiver decodes to that packet (R101, R141,
R142). -/
def Obligations.WireRoundTrip : Prop :=
  ∀ bytes : List Byte, bytes.length ≤ 11 → receiveWire (transmitWire bytes) = some bytes

/-! ### Reset and boot -/

/-- The values R350 gives for power-on, with the trim byte never written (R71). -/
def Obligations.ResetValues : Prop :=
  let s := State.reset
  (s.usb.rxSel = false ∧ s.usb.rxLen = 0 ∧ s.usb.rxLastToggle = none ∧ s.usb.txLen = 0 ∧ s.usb.txState = .idle ∧
    s.usb.txTotal = 0 ∧ s.usb.address = 0 ∧ s.usb.newAddress = 0 ∧ s.usb.addrPending = false) ∧
  (s.bridge.status = .idle ∧ s.bridge.remaining = 0 ∧ s.bridge.beginFlag = false ∧ s.bridge.endFlag = false ∧
    s.bridge.rd = false ∧ s.bridge.addr = 0 ∧ s.bridge.writeFail = false ∧ s.bridge.fullDelay = Config.defaultDelay ∧
    s.bridge.halfDelay.toNat = max 1 (Config.defaultDelay.toNat / 2)) ∧
  (s.pins.sdaDir = .input ∧ s.pins.sclDir = .input ∧ s.pins.sdaOut = false ∧ s.pins.sclOut = false) ∧
  (s.cal.oscTrim = Config.trimPor ∧ s.cal.done = false ∧ s.cal.nvTrim = 0xFF) ∧
  (s.irq.enable = false ∧ s.irq.pending = false ∧ s.irq.active = false) ∧ s.poll.phase = .boot

/-- The boot sequence from power-on, with any non-volatile bytes and any environment, which moves while boot runs with
interrupts masked: the trim is loaded unless it is the sentinel, interrupts are enabled, and an edge during boot is
latched, so `int_pending` is 0 or 1; POLL then goes to S1, after the ISR where an edge is latched (R306, R350 to
R352). That the environment moves once after each atomic step, of which the load takes two or three, is the
model's (log entries 4, 5 and 10); the environment of log entry 22 is not assumed. -/
def Obligations.BootSequence : Prop :=
  ∀ (v : Byte) (serial : Vector Byte 3) (e : Env),
    let s : State := { State.powerOn v serial with env := e }
    let moved := iterate tick (if v = 0xFF then 4 else 5) s
    let t : State :=
      { s with
        cal.oscTrim := if v = 0xFF then Config.trimPor else v
        cal.done := v != 0xFF
        irq.enable := true
        irq.pending := moved.irq.pending
        env := moved.env }
    steps 3 s = .next { t with poll.cont := [.goto .s1] } ∧
    steps 4 s = .next
      (tick (if moved.irq.pending then interruptEntry { t with poll.cont := [.goto .s1] } else { t with poll.phase := .s1 }))

/-- The state after reset has the invariant of a run, and the three invariants of the handoffs. -/
def Obligations.ResetMeetsInv : Prop :=
  Inv State.reset ∧ TxHandoff State.reset ∧ CounterOk State.reset ∧ MasterUnmasked State.reset

/-- Every step keeps the invariant: canonical RAM, packet lengths, delays of at least 1, lines never driven high, the
USB lines released between packets, interrupts disabled while the ISR runs. -/
def Obligations.StepKeepsInv : Prop := ∀ s t : State, Inv s → step s = .next t → Inv t

/-! ### The interrupt -/

/-- When an edge is latched, interrupts are enabled and the ISR is not running, the step is the interrupt's entry, and
the ISR gets the transaction the host offers (R322, R140). The environment moves after it (log entry 5). -/
def Obligations.InterruptEntry : Prop :=
  ∀ s : State, s.irq.pending = true → s.irq.enable = true → s.irq.active = false →
    step s = .next (tick
      { s with
        irq.active := true, irq.pending := false, irq.enable := false, irq.rx := s.env.offer, irq.sent := false
        env.offer := [] })

/-- When the ISR has nothing more to receive it returns: interrupts are enabled, and POLL's own state is as it was. An edge
that came while the ISR ran is still latched, and so is one that comes now; it is taken at once: the next step is the
ISR's entry again, before any step of POLL (R322, R323). That the environment moves once after each step of the ISR is
the model's (log entries 5 and 7). -/
def Obligations.InterruptReturn : Prop :=
  ∀ s : State, s.irq.active = true → s.irq.rx = [] →
    let r := tick { s with irq.enable := true, irq.active := false, irq.rx := [], irq.sent := false }
    step s = .next r ∧ (s.irq.pending = true → r.irq.pending = true) ∧
    (r.irq.pending = true →
      step r = .next (tick
        { r with
          irq.active := true, irq.pending := false, irq.enable := false, irq.rx := r.env.offer, irq.sent := false
          env.offer := [] }))

/-- An edge with no packet behind it, such as a keep-alive, costs an activation that changes nothing but the latch
and what the environment does in its two steps (R149, R324, log entries 5 and 7). -/
def Obligations.EmptyActivation : Prop :=
  ∀ s : State, s.irq.pending = true → s.irq.enable = true → s.irq.active = false → s.env.offer = [] →
    steps 2 s = .next (tick (tick { s with irq.pending := false, irq.rx := [], irq.sent := false }))

/-- What a step of the ISR may change: the receive buffer that is not active, the receive tags, `tx_len` to 0, the ISR's
own state, the packets sent and the USB lines, which it leaves released where it has driven them; the receive tags
only while `rx_len` is 0; then the environment moves. The ISR's packets set no `int_pending` (R322, R323, R83, R25,
R142). -/
def Obligations.IsrFrame : Prop :=
  ∀ s t : State, s.irq.active = true → step s = .next t →
    (∃ (u : Usb) (q : Irq) (w : Wire) (sent : List (List Byte)),
      t = tick { s with usb := u, irq := q, env.sent := sent, wire := w } ∧
      u = { s.usb with
        rxBuf0 := u.rxBuf0, rxBuf1 := u.rxBuf1, rxSel := u.rxSel, rxLen := u.rxLen, rxToken := u.rxToken
        rxLastToggle := u.rxLastToggle, txLen := u.txLen } ∧
      q.pending = s.irq.pending ∧
      (w = s.wire ∧ sent = s.env.sent ∨ ∃ p, sent = p :: s.env.sent ∧ w = transmitted p s.wire)) ∧
    rxBuf t s.usb.rxSel = rxBuf s s.usb.rxSel ∧
    (s.usb.rxLen ≠ 0 →
      t.usb.rxSel = s.usb.rxSel ∧ t.usb.rxLen = s.usb.rxLen ∧ t.usb.rxToken = s.usb.rxToken ∧
        t.usb.rxLastToggle = s.usb.rxLastToggle) ∧
    (t.usb.txLen = s.usb.txLen ∨ t.usb.txLen = 0)

/-- What a step of POLL leaves alone: the receive buffers, `rx_sel`, `rx_token`, the ISR's token, the serial digits, the
USB lines; and `rx_len` and `rx_last_toggle` it only clears (R21, R83, the ownership tables of 10_state.md). -/
def Obligations.PollFrame : Prop :=
  ∀ s t : State, Inv s → s.irq.active = false → interruptDue s = false → step s = .next t →
    t.usb.rxBuf0 = s.usb.rxBuf0 ∧ t.usb.rxBuf1 = s.usb.rxBuf1 ∧ t.usb.rxSel = s.usb.rxSel ∧
    t.usb.rxToken = s.usb.rxToken ∧ (t.usb.rxLen = s.usb.rxLen ∨ t.usb.rxLen = 0) ∧
    (t.usb.rxLastToggle = s.usb.rxLastToggle ∨ t.usb.rxLastToggle = none) ∧
    t.irq.token = s.irq.token ∧ t.irq.active = false ∧ t.cal.nvSerial = s.cal.nvSerial ∧ t.env.sent = s.env.sent ∧
    t.wire = s.wire

/-! ### The ISR's packets -/

/-- A SETUP or OUT token that passes its filter, followed by a good data packet while `rx_len` is 0 (and, for an OUT, not
a repeated toggle): the packet is stored in the other buffer, published and acknowledged (R145). -/
def Obligations.DataPacketAccepted : Prop :=
  ∀ (s : State) (setup : Bool) (pid : Byte) (payload : List Byte) (rest : List RxPacket),
    (pid = 0xC3 ∨ pid = 0x4B) → payload.length ≤ 8 →
    s.irq.rx = .bytes (dataBytes pid payload (crc16 payload)) :: rest → s.usb.rxLen = 0 →
    (setup = true ∨ s.usb.rxLastToggle ≠ some (pid == 0x4B)) →
    let crc := crc5 ((0 : BitVec 4) ++ s.usb.address)
    let tok : Byte := if setup then 0x2D else 0xE1
    ∃ b0 b1 : Vector Byte Config.bufBytes,
      exec (if setup then .setupToken s.usb.address 0 crc else .outToken s.usb.address 0 crc) s = .next
        { s with
          usb.rxBuf0 := b0, usb.rxBuf1 := b1, usb.rxSel := !s.usb.rxSel
          usb.rxLen := BitVec.ofNat 8 (payload.length + 3), usb.rxToken := tok
          usb.rxLastToggle := some (pid == 0x4B)
          irq.token := tok, irq.rx := [], irq.sent := true
          wire := transmitted [0xD2] s.wire, env.sent := [0xD2] :: s.env.sent } ∧
      (if s.usb.rxSel then b1 = s.usb.rxBuf1 else b0 = s.usb.rxBuf0) ∧
      (if s.usb.rxSel then b0 else b1).toList.take (payload.length + 3) = dataBytes pid payload (crc16 payload)

/-- After such a token: no data packet leaves everything but the ISR's own state; a data packet of a bad length, PID or
CRC16 gets no handshake and changes only the buffer that is not active, into which its first 11 bytes go (R145,
R147). That a packet garbled at bit level leaves that buffer as it was is the model's choice (log entry 30). -/
def Obligations.BadDataPacketDropped : Prop :=
  ∀ (s : State) (setup : Bool),
    let crc := crc5 ((0 : BitVec 4) ++ s.usb.address)
    let tok : Byte := if setup then 0x2D else 0xE1
    let out := exec (if setup then .setupToken s.usb.address 0 crc else .outToken s.usb.address 0 crc) s
    (s.irq.rx = [] ∨ (∃ p rest, s.irq.rx = p :: rest ∧ p.received = none) →
      out = .next { s with irq.token := tok, irq.rx := [] }) ∧
    (∀ p rest d, s.irq.rx = p :: rest → p.received = some d →
      (d.length < 3 ∨ 11 < d.length ∨ (∃ b tl, d = b :: tl ∧ b ≠ 0xC3 ∧ b ≠ 0x4B) ∨
        (∃ pid payload crc16', d = dataBytes pid payload crc16' ∧ crc16' ≠ crc16 payload)) →
      ∃ b : Vector Byte Config.bufBytes,
        out = .next
          { s with
            usb.rxBuf0 := if s.usb.rxSel then b else s.usb.rxBuf0
            usb.rxBuf1 := if s.usb.rxSel then s.usb.rxBuf1 else b
            irq.token := tok, irq.rx := [] } ∧
          b.toList.take (min d.length 11) = d.take 11)

/-- A good data packet while POLL owns a packet (`rx_len` not 0): NAK, and only the buffer that is not active changes,
into which the packet goes (R145, R361). -/
def Obligations.DataWhileBusyNaked : Prop :=
  ∀ (s : State) (setup : Bool) (pid : Byte) (payload : List Byte) (rest : List RxPacket),
    (pid = 0xC3 ∨ pid = 0x4B) → payload.length ≤ 8 →
    s.irq.rx = .bytes (dataBytes pid payload (crc16 payload)) :: rest → s.usb.rxLen ≠ 0 →
    let crc := crc5 ((0 : BitVec 4) ++ s.usb.address)
    ∃ b : Vector Byte Config.bufBytes,
      exec (if setup then .setupToken s.usb.address 0 crc else .outToken s.usb.address 0 crc) s = .next
        { s with
          usb.rxBuf0 := if s.usb.rxSel then b else s.usb.rxBuf0
          usb.rxBuf1 := if s.usb.rxSel then s.usb.rxBuf1 else b
          irq.token := if setup then 0x2D else 0xE1, irq.rx := [], irq.sent := true
          wire := transmitted [0x5A] s.wire, env.sent := [0x5A] :: s.env.sent } ∧
      b.toList.take (payload.length + 3) = dataBytes pid payload (crc16 payload)

/-- An OUT data packet whose toggle repeats the last accepted one is stored in the other buffer and acknowledged; it is
published again, with these bytes, exactly when RX_DUP_FILTER is false (R146, R366). -/
def Obligations.RepeatedToggle : Prop :=
  ∀ (s : State) (pid : Byte) (payload : List Byte) (rest : List RxPacket),
    (pid = 0xC3 ∨ pid = 0x4B) → payload.length ≤ 8 →
    s.irq.rx = .bytes (dataBytes pid payload (crc16 payload)) :: rest → s.usb.rxLen = 0 →
    s.usb.rxLastToggle = some (pid == 0x4B) →
    ∃ b : Vector Byte Config.bufBytes,
      exec (.outToken s.usb.address 0 (crc5 ((0 : BitVec 4) ++ s.usb.address))) s = .next
        { s with
          usb.rxBuf0 := if s.usb.rxSel then b else s.usb.rxBuf0
          usb.rxBuf1 := if s.usb.rxSel then s.usb.rxBuf1 else b
          usb.rxSel := if Config.rxDupFilter then s.usb.rxSel else !s.usb.rxSel
          usb.rxLen := if Config.rxDupFilter then 0 else BitVec.ofNat 8 (payload.length + 3)
          usb.rxToken := if Config.rxDupFilter then s.usb.rxToken else 0xE1
          irq.token := 0xE1, irq.rx := [], irq.sent := true
          wire := transmitted [0xD2] s.wire, env.sent := [0xD2] :: s.env.sent } ∧
      b.toList.take (payload.length + 3) = dataBytes pid payload (crc16 payload)

/-- A token with a wrong CRC5, another address or another endpoint than 0 is ignored with no response, and so is what
follows it (R144). -/
def Obligations.TokenFilter : Prop :=
  ∀ (s : State) (a : BitVec 7) (e : BitVec 4) (c : BitVec 5) (i : Instr),
    (i = .setupToken a e c ∨ i = .outToken a e c ∨ i = .inToken a e c) →
    (c ≠ crc5 (e ++ a) ∨ a ≠ s.usb.address ∨ e ≠ 0) →
    exec i s = .next { s with irq.rx := [] }

/-- IN: NAK when `tx_len` is 0; else the packet in `tx_buf` is sent, and `tx_len` is cleared exactly when the host's handshake is an
ACK (R148). -/
def Obligations.InServesPacket : Prop :=
  ∀ s : State,
    exec (.inToken s.usb.address 0 (crc5 ((0 : BitVec 4) ++ s.usb.address))) s = .next
      (if s.usb.txLen = 0 then
        { s with
          irq.rx := [], irq.sent := true
          wire := transmitted [0x5A] s.wire, env.sent := [0x5A] :: s.env.sent }
      else
        { s with
          usb.txLen := if s.irq.rx.head?.bind RxPacket.received = some [0xD2] then 0 else s.usb.txLen
          irq.rx := [], irq.sent := true
          wire := transmitted (s.usb.txBuf.toList.take s.usb.txLen.toNat) s.wire
          env.sent := s.usb.txBuf.toList.take s.usb.txLen.toNat :: s.env.sent })

/-- SOF, DATA0, DATA1, ACK, NAK, STALL and PRE as a first packet end the ISR with no response and no state change: only
the packets the ISR was still to receive are dropped with it (R149). -/
def Obligations.IgnoredFirstPackets : Prop :=
  ∀ (s : State) (f : BitVec 11) (c : BitVec 5) (p : List Byte) (crc : Half) (i : Instr),
    i ∈ [.sof f c, .data0 p crc, .data1 p crc, .ack, .nak, .stall, .pre] →
    exec i s = .next { s with irq.rx := [] }

/-! ### Requests -/

/-- The requests that get a zero-length reply and change no other state: the unhandled standard ones, the unknown vendor
and class ones, the reserved type (R124, R125, R202, R210, R232). That `tx_cursor` too keeps its value is the model's
reading (log entry 19). -/
def Obligations.ZeroLengthReplies : Prop :=
  ∀ (s : State) (q : Byte) (r : Setup) (i : Instr), Quiet s →
    i ∈ [.stdClearFeature r, .stdSetFeature r, .stdSetDescriptor r, .stdSetConfiguration r, .stdSetInterface r,
      .stdSynchFrame r, .stdOther q r, .vendorUnknown q r, .classUnknown q r, .reservedType q r] →
    exec i s = .next { s with usb.txState := .ram, usb.txTotal := 0 }

/-- SET_ADDRESS stores the pending address and does not apply it (R206). That `tx_cursor` keeps its value is the model's
reading (log entry 19). -/
def Obligations.SetAddress : Prop :=
  ∀ (s : State) (r : Setup), Quiet s →
    exec (.stdSetAddress r) s = .next
      { s with
        usb.newAddress := BitVec.ofNat 7 (r.wValue.toNat % 128), usb.addrPending := true
        usb.txState := .ram, usb.txTotal := 0 }

/-- The standard requests with a fixed reply: GET_STATUS two bytes, GET_CONFIGURATION and GET_INTERFACE one; the rest of
the RAM space is unchanged (R205, R208, R209, R203, R204). -/
def Obligations.FixedStandardReplies : Prop :=
  ∀ (s : State) (r : Setup) (i : Instr) (reply : List Byte), Quiet s → s.ram.wf = true →
    (i = .stdGetStatus r ∧ reply = [if Config.selfPowered then 1 else 0, 0] ∨
      i = .stdGetConfiguration r ∧ reply = [Config.configValue] ∨ i = .stdGetInterface r ∧ reply = [0]) →
    ∃ m, StoresReply s.ram m reply ∧
      exec i s = .next
        { s with
          ram := m, usb.txCursor := BitVec.ofNat _ Config.replyBase, usb.txState := .ram
          usb.txTotal := clampedLength reply.length r.wLength }

/-- GET_DESCRIPTOR: what DESCRIPTORS gives is served from ROM or, composed at run time, from the reply buffer; no such
descriptor is a zero-length reply (R207, R203). That the zero-length reply leaves `tx_cursor` is the model's reading
(log entry 19). -/
def Obligations.GetDescriptor : Prop :=
  ∀ (s : State) (r : Setup), Quiet s → s.ram.wf = true →
    match Config.descriptors (hi8 r.wValue) (lo8 r.wValue) r.wIndex (serialDigits s.cal.nvSerial) with
    | .absent => exec (.stdGetDescriptor r) s = .next { s with usb.txState := .ram, usb.txTotal := 0 }
    | .inRom a n =>
      n ≤ 254 ∧
      exec (.stdGetDescriptor r) s = .next
        { s with
          usb.txCursor := BitVec.ofNat _ a, usb.txState := .rom, usb.txTotal := clampedLength n r.wLength }
    | .inRam b =>
      ∃ m, StoresReply s.ram m b ∧
        exec (.stdGetDescriptor r) s = .next
          { s with
            ram := m, usb.txCursor := BitVec.ofNat _ Config.replyBase, usb.txState := .ram
            usb.txTotal := clampedLength b.length r.wLength }

/-- The vendor commands with a literal reply, as vendor and as class requests: ECHO the bytes of wValue, GET_FUNC the
mask in little-endian order, GET_STATUS the status of the last address phase; nothing of the bridge changes
(R233, R234, R235, R203). -/
def Obligations.LiteralVendorReplies : Prop :=
  ∀ (s : State) (r : Setup) (i : Instr) (reply : List Byte), Quiet s → s.ram.wf = true →
    ((i = .vendorEcho r ∨ i = .classEcho r) ∧
        reply = [BitVec.ofNat 8 (r.wValue.toNat % 256), BitVec.ofNat 8 (r.wValue.toNat / 256)] ∨
      (i = .vendorGetFunc r ∨ i = .classGetFunc r) ∧
        reply = [Config.funcMask.extractLsb' 0 8, Config.funcMask.extractLsb' 8 8, Config.funcMask.extractLsb' 16 8,
          Config.funcMask.extractLsb' 24 8] ∨
      (i = .vendorGetStatus r ∨ i = .classGetStatus r) ∧
        reply = [match s.bridge.status with | .idle => 0 | .addressAcked => 1 | .addressNacked => 2]) →
    ∃ m, StoresReply s.ram m reply ∧
      exec i s = .next
        { s with
          ram := m, usb.txCursor := BitVec.ofNat _ Config.replyBase, usb.txState := .ram
          usb.txTotal := clampedLength reply.length r.wLength }

/-- SET_DELAY: both delays from wValue, never below 1, and a reply of length 0 with `tx_cursor` at the reply buffer
(R236, R231). -/
def Obligations.SetDelay : Prop :=
  ∀ (s : State) (r : Setup) (i : Instr), Quiet s → (i = .vendorSetDelay r ∨ i = .classSetDelay r) →
    ∃ full half : Half,
      full.toNat = max 1 (Config.delayScale r.wValue).toNat ∧ half.toNat = max 1 (full.toNat / 2) ∧
      exec i s = .next
        { s with
          bridge.fullDelay := full, bridge.halfDelay := half
          usb.txCursor := BitVec.ofNat _ Config.replyBase, usb.txState := .ram, usb.txTotal := 0 }

/-- For every requested delay, in every state and whatever interrupts the command, the delays it leaves are at least 1
where they were before (R371). -/
def Obligations.DelayFloor : Prop :=
  ∀ (s t : State) (i : Instr), 1 ≤ s.bridge.fullDelay.toNat → 1 ≤ s.bridge.halfDelay.toNat → exec i s = .next t →
    1 ≤ t.bridge.fullDelay.toNat ∧ 1 ≤ t.bridge.halfDelay.toNat

/-- I2C_IO, vendor or class, where its start condition is defined: acknowledged, it loads the counter, saves the frame and
stops only a probe; not acknowledged, it reports 2, clears the counter, keeps the saved frame and stops. A read with
data left starts a callback transfer; every other reply is of length 0, with `tx_cursor` at the reply buffer. On the
bus: the START of a begin flag exactly from the idle bus, the START of a repeated one always, then the address byte
and a released SDA, then the STOP (R240 to R244, R231, R280, R281). -/
def Obligations.I2cIoCompletes : Prop :=
  ∀ (s : State) (b e : Bool) (r : Setup) (i : Instr), SclFree s → NeverHigh s →
    (i = .vendorI2cIo b e r ∨ i = .classI2cIo b e r) → (b = true ∨ s.pins.sclDir = .output) →
    let acked := s.env.sdaLow
    let stopped := !acked || (e && r.wLength == 0)
    let reading := acked && r.wValue.getLsbD 0 && r.wLength != 0
    let sda := released s.pins .sda
    let scl := released s.pins .scl
    ∃ log : List BusEvent,
      exec i s = .next
        { s with
          bridge := { s.bridge with
            status := if acked then .addressAcked else .addressNacked
            remaining := if acked then r.wLength else 0
            beginFlag := if acked then b else s.bridge.beginFlag
            endFlag := if acked then e else s.bridge.endFlag
            rd := if acked then r.wValue.getLsbD 0 else s.bridge.rd
            addr := if acked then r.wIndex.extractLsb' 0 7 else s.bridge.addr
            writeFail := false }
          pins := { s.pins with
            sdaDir := .input, sclDir := if stopped then .input else .output, ack := acked
            log := log ++ s.pins.log }
          usb.txCursor := if reading then s.usb.txCursor else BitVec.ofNat _ Config.replyBase
          usb.txState := if reading then .callback else .ram
          usb.txTotal := if reading then clampedLength 255 r.wLength else 0 } ∧
      busConditions sda scl log.reverse =
        (if b then (if sda && scl then [.start] else []) else [.start]) ++ (if stopped then [.stop] else []) ∧
      clockedBits scl log.reverse =
        (if b then [] else [true]) ++ bitsMsbFirst (r.wIndex.extractLsb' 0 7 ++ r.wValue.extractLsb' 0 1) ++ [true] ++
          (if stopped then [false] else [])

/-- I2C_IO without the begin flag while the master does not hold SCL low faults, vendor or class (R241, R281, R365). -/
def Obligations.I2cIoUndefinedStart : Prop :=
  ∀ (s : State) (e : Bool) (r : Setup) (i : Instr), interruptDue s = false → s.env.host = [] → s.pins.sclDir = .input →
    (i = .vendorI2cIo false e r ∨ i = .classI2cIo false e r) → exec i s = .fault .i2cRstartUndefined

/-- The start of a transfer clamps the reply to the host's wLength, a wLength of 256 or more counting as 255; the
sentinel starts a callback transfer of what the host asked for (R203). -/
def Obligations.TransferClamp : Prop :=
  ∀ (s : State) (r : Byte) (src : TxState) (wl : Half), Quiet s →
    runInstr [.startTransfer r src wl] s = .next
      { s with
        usb.txState := if r.toNat = 255 then .callback else src
        usb.txTotal := clampedLength r.toNat wl }

/-- No standard request and no request of the reserved type changes the bridge, the I2C lines or the calibrator, whether
or not it is interrupted (R211, R202). -/
def Obligations.StandardRequestsLeaveBridge : Prop :=
  ∀ (s t : State) (q : Byte) (r : Setup) (i : Instr),
    i ∈ [.stdGetStatus r, .stdClearFeature r, .stdSetFeature r, .stdSetAddress r, .stdGetDescriptor r,
      .stdSetDescriptor r, .stdGetConfiguration r, .stdSetConfiguration r, .stdGetInterface r, .stdSetInterface r,
      .stdSynchFrame r, .stdOther q r, .reservedType q r] →
    exec i s = .next t → t.bridge = s.bridge ∧ t.pins = s.pins ∧ t.cal = s.cal

/-! ### The I2C master -/

/-- START ends with both lines held low; it is a START condition exactly when both lines were released before it
(R280, R285). -/
def Obligations.I2cStart : Prop :=
  ∀ (s : State) (d : Byte), Quiet s →
    ∃ log : List BusEvent,
      exec (.i2cStart d) s = .next
        { s with
          pins := { s.pins with
            sdaDir := .output, sclDir := .output, sdaOut := false, sclOut := false, log := log ++ s.pins.log } } ∧
      busConditions (released s.pins .sda) (released s.pins .scl) log.reverse =
        (if released s.pins .sda && released s.pins .scl then [.start] else [])

/-- RSTART while the master holds SCL low makes exactly one START condition and no STOP, and ends with both lines held
low; while SCL is not an output it faults (R281, R285). -/
def Obligations.I2cRstart : Prop :=
  ∀ (s : State) (d : Byte), SclFree s →
    (s.pins.sclDir = .output → s.pins.sclOut = false →
      ∃ log : List BusEvent,
        exec (.i2cRstart d) s = .next
          { s with
            pins := { s.pins with
              sdaDir := .output, sclDir := .output, sdaOut := false, sclOut := false, log := log ++ s.pins.log } } ∧
        busConditions (released s.pins .sda) false log.reverse = [.start]) ∧
    (s.pins.sclDir = .input → exec (.i2cRstart d) s = .fault .i2cRstartUndefined)

/-- STOP ends with both lines released and a STOP condition last; issued with both lines released it makes a START before
it (R282, R285). -/
def Obligations.I2cStop : Prop :=
  ∀ (s : State) (d : Byte), SclFree s →
    ∃ log : List BusEvent,
      exec (.i2cStop d) s = .next
        { s with pins := { s.pins with sdaDir := .input, sclDir := .input, sdaOut := false, log := log ++ s.pins.log } } ∧
      busConditions (released s.pins .sda) (released s.pins .scl) log.reverse =
        (if released s.pins .sda && released s.pins .scl then [.start, .stop] else [.stop])

/-- WRITE returns whether the slave holds SDA low in the ninth clock, and ends with SDA released and SCL held low; from SCL
held low it clocks out the byte most significant bit first, then a released SDA, with no bus condition
(R283, R285). -/
def Obligations.I2cWrite : Prop :=
  ∀ (s : State) (b : Byte), SclFree s → NeverHigh s →
    ∃ log : List BusEvent,
      exec (.i2cWrite b) s = .next
        { s with
          pins := { s.pins with sdaDir := .input, sclDir := .output, ack := s.env.sdaLow, log := log ++ s.pins.log } } ∧
      (s.pins.sclDir = .output →
        clockedBits false log.reverse = bitsMsbFirst b ++ [true] ∧
        busConditions (released s.pins .sda) false log.reverse = [])

/-- READ_ACK and READ_NAK assemble the byte a slave sends, for every byte; the ninth clock carries a held SDA for ACK and
a released one for NAK, and from SCL held low there is no bus condition (R284, R285). -/
def Obligations.I2cRead : Prop :=
  ∀ (s : State) (b d : Byte) (last : Bool), s.env.host = [] → interruptDue s = false → NeverHigh s →
    s.env.bus = slaveScript b →
    ∃ log : List BusEvent,
      exec (if last then .i2cReadNak d else .i2cReadAck d) s = .next
        { s with
          pins := { s.pins with
            sdaDir := if last then .input else .output, sclDir := .output, byte := b, log := log ++ s.pins.log }
          env := { s.env with bus := [], sdaLow := !b.getLsbD 0, sclLow := false } } ∧
      (s.pins.sclDir = .output →
        clockedBits false log.reverse = [true, true, true, true, true, true, true, true, last] ∧
        busConditions (released s.pins .sda) false log.reverse = [])

/-- The reserved commands of both ports stop with the fault that R286 and R333 raise, in every state. -/
def Obligations.ReservedCommandsFault : Prop :=
  ∀ (s : State) (d : Byte) (i : Instr), i ∈ [.i2cReserved0 d, .i2cReserved7 d, .calReserved0, .calReserved3] →
    exec i s = .fault .reservedCommand

/-- While a slave holds SCL low, POLL takes no step past the clock-stretch wait: only the environment moves, and the wait
is what POLL tries next again (R273, R290, R332). -/
def Obligations.ClockStretchHolds : Prop :=
  ∀ (s : State) (rest : List MicroOp), s.irq.active = false → interruptDue s = false → s.poll.cont = .waitScl :: rest →
    s.env.sclLow = true → step s = .next (tick s) ∧ (tick s).poll.cont = .waitScl :: rest

/-! ### The calibrator -/

/-- CAL_LOAD loads the stored trim unless it is the sentinel (R306). -/
def Obligations.CalLoad : Prop :=
  ∀ s : State, Quiet s →
    exec .calLoad s = .next
      { s with
        cal.oscTrim := if s.cal.nvTrim = 0xFF then s.cal.oscTrim else s.cal.nvTrim
        cal.done := s.cal.nvTrim != 0xFF }

/-- CAL_RUN, with two frame markers for each measurement: the trim register and the stored trim become the winner of the
binary search and the neighbourhood search on the counts, for any counts, once the host has ended the bus reset
(R302 to R305). -/
def Obligations.CalRunResult : Prop :=
  ∀ (s : State) (M : Byte → Half) (rest : List HostEvent), s.irq.enable = false → s.env.bus = [] →
    s.env.host = calibrationScript M ++ rest →
    ∃ count : Half,
      exec .calRun s = .next
        { s with
          cal := { s.cal with
            oscTrim := calibrated M, done := true, nvTrim := calibrated M, trial := searchTrial M, step := 1
            best := calibrated M, bestDev := some (countDeviation (M (calibrated M))), count := count }
          irq.pending := true
          env := { s.env with host := rest, marker := none, dmLow := false } }

/-- With counts that do not decrease as the trim increases, the trim CAL_RUN leaves has the smallest deviation of all 256
trims (R307). -/
def Obligations.CalibrationConverges : Prop :=
  ∀ (s : State) (M : Byte → Half) (rest : List HostEvent), s.irq.enable = false → s.env.bus = [] →
    s.env.host = calibrationScript M ++ rest → (∀ a b : Byte, a.toNat ≤ b.toNat → (M a).toNat ≤ (M b).toNat) →
    ∃ t, exec .calRun s = .next t ∧ t.cal.done = true ∧ t.cal.nvTrim = t.cal.oscTrim ∧
      ∀ v : Byte, countDeviation (M t.cal.oscTrim) ≤ countDeviation (M v)

/-- Without a frame marker a measurement does not return: POLL stands at its wait, for the marker that opens it and for
the one that ends it alike; and while the host holds the bus in reset there is no marker, whatever it tries to send
(R300, R332). That a keep-alive during a bus reset has no effect is the model's choice (log entry 11). -/
def Obligations.MeasurementWaits : Prop :=
  (∀ (s : State) (op : MicroOp) (rest : List MicroOp), s.irq.active = false → interruptDue s = false →
    (op = .measureOpen ∨ op = .measureEnd) → s.poll.cont = op :: rest → s.env.marker = none →
    step s = .next (tick s) ∧ (tick s).poll.cont = op :: rest) ∧
  (∀ (s : State) (err : Half), s.env.dmLow = true → hostMove (.keepAlive err) s = s)

/-! ### The poll loop -/

/-- S1 with no packet goes to S2 and changes nothing else; with a SETUP whose payload is not 8 bytes, or a zero-length
OUT, it aborts the transmission, frees the buffer and goes to S2 (R151 to R155). The exact counts of steps, 7 and 10,
are the model's granularity (log entries 10 and 20). -/
def Obligations.S1EmptyOrAbort : Prop :=
  ∀ s : State, AtPhase .s1 s →
    (s.usb.rxLen = 0 → steps 7 s = .next { s with irq.enable := true, poll.phase := .s2 }) ∧
    ((s.usb.rxToken = 0x2D ∧ 3 ≤ s.usb.rxLen.toNat ∧ s.usb.rxLen ≠ 11 ∨ s.usb.rxToken = 0xE1 ∧ s.usb.rxLen = 3) →
      steps 10 s = .next
        { s with
          usb.txLen := 0, usb.txState := .idle, usb.rxLen := 0
          irq.enable := true, poll.phase := .s2 })

/-- S1 with a SETUP of 8 bytes aborts the old transmission, sets DATA0, reads the payload of the active buffer byte by byte
and stands before its dispatch, with the buffer still owned by POLL (R151, R152, R155, R81). The exact count of 17 steps
and the form of the continuation are the model's (log entries 10 and 20). -/
def Obligations.S1ReachesDispatch : Prop :=
  ∀ s : State, AtPhase .s1 s → s.usb.rxLen = 11 → s.usb.rxToken = 0x2D →
    steps 17 s = .next
      { s with
        usb.txLen := 0, usb.txState := .idle, usb.txBuf := s.usb.txBuf.set 0 0xC3
        irq.enable := true
        poll.cont := [.dispatch (setupPayload s s.usb.rxSel), .setRxLen 0, .goto .s2] }

/-- S1 with a non-empty OUT: while an acknowledged transaction has bytes left, min(m, remaining) bytes of the payload go
out most significant bit first, each followed by a released SDA, the counter falls by as many, a byte not
acknowledged sets the write-failure flag, and the end flag's stop follows where the counter reaches 0; where no byte
may go out nothing reaches the bus, whatever its lines are: the payload is dropped (R153, R250 to R254). The slave's
choice of SDA does not change meanwhile (log entry 5). -/
def Obligations.OutPayloadWritten : Prop :=
  ∀ (s : State) (m : Nat), AtPhase .s1 s → 1 ≤ m → m ≤ 8 → s.usb.rxToken = 0xE1 → s.usb.rxLen = BitVec.ofNat 8 (m + 3) →
    let payload := ((rxBuf s s.usb.rxSel).toList.drop 1).take m
    let c := if s.bridge.status = .addressAcked then min m s.bridge.remaining.toNat else 0
    let stopped := decide (0 < c) && decide (s.bridge.remaining.toNat = c) && s.bridge.endFlag
    (0 < c → s.env.sclLow = false ∧ NeverHigh s ∧ s.pins.sclDir = .output) →
    ∃ (n : Nat) (log : List BusEvent),
      steps n s = .next
        { s with
          bridge.remaining := s.bridge.remaining - BitVec.ofNat 16 c
          bridge.writeFail := s.bridge.writeFail || (decide (0 < c) && !s.env.sdaLow)
          pins := { s.pins with
            sdaDir := if 0 < c then .input else s.pins.sdaDir
            sclDir := if stopped then .input else s.pins.sclDir
            ack := if 0 < c then s.env.sdaLow else s.pins.ack
            log := log ++ s.pins.log }
          usb.rxLen := 0, irq.enable := true, poll.phase := .s2 } ∧
      (c = 0 → log = []) ∧
      clockedBits false log.reverse =
        (payload.take c).flatMap (fun b => bitsMsbFirst b ++ [true]) ++ (if stopped then [false] else []) ∧
      (0 < c → busConditions (released s.pins .sda) false log.reverse = if stopped then [.stop] else [])

/-- S2 with an empty transmit buffer and a transfer from RAM or ROM prepares the next packet: up to 8 bytes from the
cursor, the toggled PID, the CRC16; a packet of fewer than 8 bytes ends the transfer (R160 to R163, R165, R166). That
the cursor wraps at its width and the exact count of 15 + 3k steps are the model's (log entries 10, 18 and 20). -/
def Obligations.RefillFromMemory : Prop :=
  ∀ s : State, AtPhase .s2 s → s.usb.txLen = 0 → (s.usb.txState = .ram ∨ s.usb.txState = .rom) →
    let k := min 8 s.usb.txTotal.toNat
    let payload := (List.range k).map fun i =>
      if s.usb.txState = .ram then s.ram.read ((s.usb.txCursor.toNat + i) % 2 ^ Config.cursorBits)
      else Config.rom ((s.usb.txCursor.toNat + i) % 2 ^ Config.cursorBits)
    ∃ buf : Vector Byte Config.bufBytes,
      steps (15 + 3 * k) s = .next
        { s with
          usb.txBuf := buf, usb.txLen := BitVec.ofNat 8 (k + 3)
          usb.txState := if k < 8 then .idle else s.usb.txState
          usb.txCursor := s.usb.txCursor + BitVec.ofNat _ k
          usb.txTotal := s.usb.txTotal - BitVec.ofNat 8 k
          irq.enable := true, poll.phase := .s3 } ∧
      buf.toList.take (k + 3) = dataBytes (s.usb.txBuf[0] ^^^ 0x88) payload (crc16 payload)

/-- S2 with a callback transfer. After an acknowledged address it reads min(8, tx_total, remaining) bytes, any that a slave
sends; every byte is acknowledged but the one that brings the counter to 0, and the end flag's stop, a STOP condition
that releases both lines, follows that one; with nothing to read nothing reaches the bus, whatever its lines are. After
an address that was not acknowledged it reads nothing and takes min(8, tx_total) zero bytes. In both cases the bytes,
the toggled PID and their CRC16 are the packet in `tx_buf`, and fewer than 8 end the transfer (R160, R161, R164 to R166,
R245 to R249). The slave's script, which fits the model's steps, is the model's (log entries 5 and 10). -/
def Obligations.ReadCallbackNaksLast : Prop :=
  ∀ (s : State) (bytes : List Byte), s.usb.txLen = 0 → s.usb.txState = .callback →
    let cap := min 8 s.usb.txTotal.toNat
    let k := min cap s.bridge.remaining.toNat
    let stopped := decide (0 < k) && decide (s.bridge.remaining.toNat = k) && s.bridge.endFlag
    (s.bridge.status = .addressAcked → bytes.length = k → (0 < k → NeverHigh s ∧ s.pins.sclDir = .output) →
      AtPhaseWith .s2 []
        (List.replicate 5 ⟨false, false⟩ ++ readCallbackScript s.bridge.remaining.toNat bytes) s →
      ∃ (n : Nat) (buf : Vector Byte Config.bufBytes) (log : List BusEvent),
        steps n s = .next
          { s with
            usb.txBuf := buf, usb.txLen := BitVec.ofNat 8 (k + 3)
            usb.txState := if k < 8 then .idle else .callback
            usb.txTotal := s.usb.txTotal - BitVec.ofNat 8 k
            bridge.remaining := s.bridge.remaining - BitVec.ofNat 16 k
            pins := { s.pins with
              sdaDir :=
                if k = 0 then s.pins.sdaDir
                else if s.bridge.remaining.toNat = k then .input else .output
              sclDir := if stopped then .input else s.pins.sclDir
              byte := bytes.getLast?.getD s.pins.byte
              log := log ++ s.pins.log }
            env := { s.env with bus := [], sdaLow := false, sclLow := false }
            irq.enable := true, poll.phase := .s3 } ∧
        buf.toList.take (k + 3) = dataBytes (s.usb.txBuf[0] ^^^ 0x88) bytes (crc16 bytes) ∧
        (k = 0 → log = []) ∧
        clockedBits false log.reverse =
          (List.range k).flatMap
              (fun j => List.replicate 8 true ++ [decide (s.bridge.remaining.toNat = j + 1)]) ++
            (if stopped then [false] else []) ∧
        (0 < k → busConditions (released s.pins .sda) false log.reverse = if stopped then [.stop] else [])) ∧
    (s.bridge.status ≠ .addressAcked → AtPhase .s2 s →
      ∃ (n : Nat) (buf : Vector Byte Config.bufBytes),
        steps n s = .next
          { s with
            usb.txBuf := buf, usb.txLen := BitVec.ofNat 8 (cap + 3)
            usb.txState := if cap < 8 then .idle else .callback
            usb.txTotal := s.usb.txTotal - BitVec.ofNat 8 cap
            irq.enable := true, poll.phase := .s3 } ∧
        buf.toList.take (cap + 3) =
          dataBytes (s.usb.txBuf[0] ^^^ 0x88) (List.replicate cap 0) (crc16 (List.replicate cap 0)))

/-- S2 with nothing to refill: the pending address is committed exactly when no transfer is active and no packet waits
(R160, R167). The exact counts of steps, 8 with a commit and 6 without, are the model's granularity (log entries 10 and
20). -/
def Obligations.AddressCommit : Prop :=
  ∀ s : State, AtPhase .s2 s → (s.usb.txLen ≠ 0 ∨ s.usb.txState = .idle) →
    (s.usb.txState = .idle ∧ s.usb.txLen = 0 ∧ s.usb.addrPending = true →
      steps 8 s = .next
        { s with
          usb.address := s.usb.newAddress, usb.addrPending := false
          irq.enable := true, poll.phase := .s3 }) ∧
    (¬ (s.usb.txState = .idle ∧ s.usb.txLen = 0 ∧ s.usb.addrPending = true) →
      steps 6 s = .next { s with irq.enable := true, poll.phase := .s3 })

/-- S3: DM high at the first sample is no reset, and DM going high after 1 to 9 low samples is none either; ten low samples
are a bus reset, which clears the transport, with interrupts disabled, and touches neither the bridge nor the I2C lines
nor, once it is calibrated, the calibrator (R169 to R171, R353). That DM's rise latches an edge, so that the ISR runs
once before the next sample, is the model's (log entry 12), and so are the exact counts of steps (log entries 7 and
10). -/
def Obligations.BusReset : Prop :=
  ∀ s : State, s.irq.enable = true → UsbReleased s →
    let cleared : Usb :=
      { s.usb with
        rxLen := 0, txLen := 0, txState := .idle, txTotal := 0, address := 0, newAddress := 0, addrPending := false
        rxLastToggle := none }
    (AtPhase .s3 s → s.env.dmLow = false → steps 2 s = .next { s with poll.phase := .s1 }) ∧
    (∀ m, 1 ≤ m → m ≤ 9 → AtPhaseWith .s3 (List.replicate (m - 1) .idle ++ [.resetEnd]) [] s → s.env.dmLow = true →
      s.env.offer = [] →
      steps (m + 4) s = .next
        { s with
          irq.rx := [], irq.sent := false, poll.phase := .s1
          env := { s.env with host := [], dmLow := false } }) ∧
    (AtPhase .s3 s → s.env.dmLow = true →
      steps 19 s = .next
        { s with usb := cleared, irq.enable := false, poll.cont := [.calibrateOnce, .intUnmask, .goto .s1] } ∧
      (s.cal.done = true → steps 22 s = .next { s with usb := cleared, poll.phase := .s1 }) ∧
      (s.cal.done = false →
        steps 20 s = .next
          { s with usb := cleared, irq.enable := false, poll.cont := [.calCmd 1, .intUnmask, .goto .s1] }))

/-! ### Rules of the whole machine -/

/-- Every step keeps the transmit handoff: while a packet waits, POLL is about to write nothing into it, so the ISR never
sends a partly written packet (R84). -/
def Obligations.StepKeepsTxHandoff : Prop := ∀ s t : State, TxHandoff s → step s = .next t → TxHandoff t

/-- Every step keeps the counter's bound, and a decrement takes exactly 1 from a counter that is not 0: it never wraps
(R254, R35). -/
def Obligations.CounterNeverWraps : Prop :=
  ∀ s t : State, CounterOk s → step s = .next t →
    CounterOk t ∧
    (s.irq.active = false → interruptDue s = false → (∃ rest, s.poll.cont = .decRemaining :: rest) →
      t.bridge.remaining.toNat + 1 = s.bridge.remaining.toNat)

/-- Every step keeps interrupts enabled wherever the I2C master acts (R289, R326, R43). -/
def Obligations.StepKeepsMasterUnmasked : Prop :=
  ∀ s t : State, MasterUnmasked s → step s = .next t →
    MasterUnmasked t ∧
    (s.irq.active = false → (∃ op rest, s.poll.cont = op :: rest ∧ op.touchesMaster = true) → s.irq.enable = true)

/-- A request that interrupts break into comes to what it comes to undisturbed: whatever the host does meanwhile, once POLL
has resumed and worked off what the request left, the poll loop stands where it stood after the request, and all that
POLL owns (the transfer, the pending address, the reply buffer, the bridge, the I2C lines and their history, the
calibrator) is as in the undisturbed run; the ISR may have cleared `tx_len` and taken a packet meanwhile (R81, R323,
R325). The bus agent stands still and stretches no clock. That a request is one step of the machine where nothing
disturbs it, and several where something does, is the model's (log entry 21). -/
def Obligations.InterruptedRequestCompletes : Prop :=
  ∀ (s r : State) (i : Instr), isRequest i = true → s.irq.active = false → s.env.bus = [] →
    s.env.sclLow = false → exec i (quietened s) = .next r →
    ∃ (u t : State) (n : Nat), exec i s = .next u ∧ steps n u = .next t ∧ t.poll = s.poll ∧ t.irq.active = false ∧
      t.ram = r.ram ∧ t.bridge = r.bridge ∧ t.pins = r.pins ∧ t.cal = r.cal ∧
      t.usb.txState = r.usb.txState ∧ t.usb.txTotal = r.usb.txTotal ∧ t.usb.txCursor = r.usb.txCursor ∧
      t.usb.txBuf = r.usb.txBuf ∧ t.usb.newAddress = r.usb.newAddress ∧ t.usb.addrPending = r.usb.addrPending ∧
      t.usb.address = r.usb.address ∧ (t.usb.txLen = r.usb.txLen ∨ t.usb.txLen = 0)

/-- Nothing is fatal but what the spec says is: from a state with the invariant the only fault a step can raise is the
undefined repeated start, and only while the master does not hold SCL low (R121, R331, R365). -/
def Obligations.OnlyUndefinedStartFaults : Prop :=
  ∀ (s : State) (f : Fault), Inv s → step s = .fault f → f = .i2cRstartUndefined ∧ s.pins.sclDir = .input

/-- No step refuses: every instruction of the table has its meaning. -/
def Obligations.NoStepRefuses : Prop := ∀ (s : State) (r : Refusal), step s ≠ .refused r

/-- ECHO from end to end: with an ECHO request of wLength 2 published in the receive buffer, POLL comes to stand at S3
with a DATA1 packet in the transmit buffer that carries exactly the two bytes of wValue (R233, R112, R152, R161,
R165). -/
def Obligations.EchoRoundTrip : Prop :=
  ∀ (s : State) (v0 v1 i0 i1 : Byte), AtPhase .s1 s → s.ram.wf = true → s.usb.rxLen = 11 → s.usb.rxToken = 0x2D →
    setupPayload s s.usb.rxSel = [0xC1, 0x00, v0, v1, i0, i1, 0x02, 0x00] →
    ∃ (n : Nat) (t : State),
      steps n s = .next t ∧ t.poll = { phase := .s3, cont := [] } ∧ t.usb.rxLen = 0 ∧ t.usb.txLen = 5 ∧
      t.usb.txBuf.toList.take 5 = dataBytes 0x4B [v0, v1] (crc16 [v0, v1])

/-- A power cycle keeps the non-volatile bytes and gives every other field the value that R350 gives for power-on (R71,
R350). That a power cycle is an operation on a state, and no step, is the model's (log entry 28). -/
def Obligations.PowerCycleKeepsNv : Prop :=
  ∀ s : State,
    let t := powerCycle s
    t = State.powerOn s.cal.nvTrim s.cal.nvSerial ∧
    (t.cal.nvTrim = s.cal.nvTrim ∧ t.cal.nvSerial = s.cal.nvSerial ∧ t.cal.oscTrim = Config.trimPor ∧
      t.cal.done = false) ∧
    (t.usb.rxSel = false ∧ t.usb.rxLen = 0 ∧ t.usb.rxLastToggle = none ∧ t.usb.txLen = 0 ∧ t.usb.txState = .idle ∧
      t.usb.txTotal = 0 ∧ t.usb.address = 0 ∧ t.usb.newAddress = 0 ∧ t.usb.addrPending = false) ∧
    (t.bridge.status = .idle ∧ t.bridge.remaining = 0 ∧ t.bridge.beginFlag = false ∧ t.bridge.endFlag = false ∧
      t.bridge.rd = false ∧ t.bridge.addr = 0 ∧ t.bridge.writeFail = false ∧ t.bridge.fullDelay = Config.defaultDelay ∧
      t.bridge.halfDelay.toNat = max 1 (Config.defaultDelay.toNat / 2)) ∧
    (t.pins.sdaDir = .input ∧ t.pins.sclDir = .input ∧ t.pins.sdaOut = false ∧ t.pins.sclOut = false) ∧
    (t.irq.enable = false ∧ t.irq.pending = false ∧ t.irq.active = false) ∧ t.poll.phase = .boot
end

