-- ==== Sys2Proof/Laws/State.lean ====
section
/-! SUPPORT. What each named update of the state leaves alone, one lemma for each part of the state. -/

namespace Sys2Proof.Machine

@[simp] theorem putReply_usb (j : Nat) (b : Byte) (s : State) : (putReply j b s).usb = s.usb := rfl
@[simp] theorem putReply_bridge (j : Nat) (b : Byte) (s : State) : (putReply j b s).bridge = s.bridge := rfl
@[simp] theorem putReply_pins (j : Nat) (b : Byte) (s : State) : (putReply j b s).pins = s.pins := rfl
@[simp] theorem putReply_cal (j : Nat) (b : Byte) (s : State) : (putReply j b s).cal = s.cal := rfl
@[simp] theorem putReply_irq (j : Nat) (b : Byte) (s : State) : (putReply j b s).irq = s.irq := rfl
@[simp] theorem putReply_poll (j : Nat) (b : Byte) (s : State) : (putReply j b s).poll = s.poll := rfl
@[simp] theorem putReply_wire (j : Nat) (b : Byte) (s : State) : (putReply j b s).wire = s.wire := rfl
@[simp] theorem putReply_env (j : Nat) (b : Byte) (s : State) : (putReply j b s).env = s.env := rfl

@[simp] theorem nvWrite_usb (c : NvCell) (b : Byte) (s : State) : (nvWrite c b s).usb = s.usb := by cases c <;> rfl
@[simp] theorem nvWrite_bridge (c : NvCell) (b : Byte) (s : State) : (nvWrite c b s).bridge = s.bridge := by cases c <;> rfl
@[simp] theorem nvWrite_pins (c : NvCell) (b : Byte) (s : State) : (nvWrite c b s).pins = s.pins := by cases c <;> rfl
@[simp] theorem nvWrite_irq (c : NvCell) (b : Byte) (s : State) : (nvWrite c b s).irq = s.irq := by cases c <;> rfl
@[simp] theorem nvWrite_poll (c : NvCell) (b : Byte) (s : State) : (nvWrite c b s).poll = s.poll := by cases c <;> rfl
@[simp] theorem nvWrite_wire (c : NvCell) (b : Byte) (s : State) : (nvWrite c b s).wire = s.wire := by cases c <;> rfl
@[simp] theorem nvWrite_env (c : NvCell) (b : Byte) (s : State) : (nvWrite c b s).env = s.env := by cases c <;> rfl
@[simp] theorem nvWrite_ram (c : NvCell) (b : Byte) (s : State) : (nvWrite c b s).ram = s.ram := by cases c <;> rfl

@[simp] theorem setDirection_usb (l : I2cLine) (m : Dir) (s : State) : (setDirection (.i2c l) m s).usb = s.usb := by cases l <;> rfl
@[simp] theorem setDirection_bridge (l : I2cLine) (m : Dir) (s : State) : (setDirection (.i2c l) m s).bridge = s.bridge := by cases l <;> rfl
@[simp] theorem setDirection_cal (l : I2cLine) (m : Dir) (s : State) : (setDirection (.i2c l) m s).cal = s.cal := by cases l <;> rfl
@[simp] theorem setDirection_irq (l : I2cLine) (m : Dir) (s : State) : (setDirection (.i2c l) m s).irq = s.irq := by cases l <;> rfl
@[simp] theorem setDirection_poll (l : I2cLine) (m : Dir) (s : State) : (setDirection (.i2c l) m s).poll = s.poll := by cases l <;> rfl
@[simp] theorem setDirection_wire (l : I2cLine) (m : Dir) (s : State) : (setDirection (.i2c l) m s).wire = s.wire := by cases l <;> rfl
@[simp] theorem setDirection_env (l : I2cLine) (m : Dir) (s : State) : (setDirection (.i2c l) m s).env = s.env := by cases l <;> rfl
@[simp] theorem setDirection_ram (l : I2cLine) (m : Dir) (s : State) : (setDirection (.i2c l) m s).ram = s.ram := by cases l <;> rfl

@[simp] theorem setLine_usb (l : I2cLine) (v : Bool) (s : State) : (setLine (.i2c l) v s).usb = s.usb := by cases l <;> rfl
@[simp] theorem setLine_bridge (l : I2cLine) (v : Bool) (s : State) : (setLine (.i2c l) v s).bridge = s.bridge := by cases l <;> rfl
@[simp] theorem setLine_cal (l : I2cLine) (v : Bool) (s : State) : (setLine (.i2c l) v s).cal = s.cal := by cases l <;> rfl
@[simp] theorem setLine_irq (l : I2cLine) (v : Bool) (s : State) : (setLine (.i2c l) v s).irq = s.irq := by cases l <;> rfl
@[simp] theorem setLine_poll (l : I2cLine) (v : Bool) (s : State) : (setLine (.i2c l) v s).poll = s.poll := by cases l <;> rfl
@[simp] theorem setLine_wire (l : I2cLine) (v : Bool) (s : State) : (setLine (.i2c l) v s).wire = s.wire := by cases l <;> rfl
@[simp] theorem setLine_env (l : I2cLine) (v : Bool) (s : State) : (setLine (.i2c l) v s).env = s.env := by cases l <;> rfl
@[simp] theorem setLine_ram (l : I2cLine) (v : Bool) (s : State) : (setLine (.i2c l) v s).ram = s.ram := by cases l <;> rfl

@[simp] theorem delayStep_usb (d : DelayKind) (s : State) : (delayStep d s).usb = s.usb := rfl
@[simp] theorem delayStep_bridge (d : DelayKind) (s : State) : (delayStep d s).bridge = s.bridge := rfl
@[simp] theorem delayStep_cal (d : DelayKind) (s : State) : (delayStep d s).cal = s.cal := rfl
@[simp] theorem delayStep_irq (d : DelayKind) (s : State) : (delayStep d s).irq = s.irq := rfl
@[simp] theorem delayStep_poll (d : DelayKind) (s : State) : (delayStep d s).poll = s.poll := rfl
@[simp] theorem delayStep_wire (d : DelayKind) (s : State) : (delayStep d s).wire = s.wire := rfl
@[simp] theorem delayStep_env (d : DelayKind) (s : State) : (delayStep d s).env = s.env := rfl
@[simp] theorem delayStep_ram (d : DelayKind) (s : State) : (delayStep d s).ram = s.ram := rfl

@[simp] theorem receivePacket_usb (s : State) : ((receivePacket s).2).usb = s.usb := by unfold receivePacket; split <;> rfl
@[simp] theorem receivePacket_bridge (s : State) : ((receivePacket s).2).bridge = s.bridge := by unfold receivePacket; split <;> rfl
@[simp] theorem receivePacket_pins (s : State) : ((receivePacket s).2).pins = s.pins := by unfold receivePacket; split <;> rfl
@[simp] theorem receivePacket_cal (s : State) : ((receivePacket s).2).cal = s.cal := by unfold receivePacket; split <;> rfl
@[simp] theorem receivePacket_poll (s : State) : ((receivePacket s).2).poll = s.poll := by unfold receivePacket; split <;> rfl
@[simp] theorem receivePacket_wire (s : State) : ((receivePacket s).2).wire = s.wire := by unfold receivePacket; split <;> rfl
@[simp] theorem receivePacket_env (s : State) : ((receivePacket s).2).env = s.env := by unfold receivePacket; split <;> rfl
@[simp] theorem receivePacket_ram (s : State) : ((receivePacket s).2).ram = s.ram := by unfold receivePacket; split <;> rfl

/-- Every line state of a list is driven: the output levels are then some levels, and the history has them all. -/
theorem drive_all (w : List LineState) (s : State) :
    ∃ d m : Bool, w.foldl (fun t l => driveState l t) s =
      { s with wire := { s.wire with dpOut := d, dmOut := m, log := w.reverse ++ s.wire.log } } := by
  induction w generalizing s with
  | nil => exact ⟨_, _, rfl⟩
  | cons l rest ih =>
    obtain ⟨d, m, h⟩ := ih (driveState l s)
    refine ⟨d, m, ?_⟩
    rw [List.foldl_cons, h]
    simp [driveState, setLine]

/-- What the bit-level transmit does, whole: the wire's history has the packet's line states, the lines are released, and
the output levels are J's (R142). -/
theorem transmit_eq (p : List Byte) (s : State) :
    transmit p s =
      { s with
        wire := {
          dpDir := .input, dmDir := .input, dpOut := false, dmOut := true
          log := (transmitWire p).reverse ++ s.wire.log } } := by
  obtain ⟨d, m, h⟩ := drive_all (nrziEncode .j (syncBits ++ stuffBits 1 (packetBits p)) ++ [.se0, .se0])
    (setDirection .dm .output (setDirection .dp .output s))
  have hw : transmitWire p = nrziEncode .j (syncBits ++ stuffBits 1 (packetBits p)) ++ [.se0, .se0] ++ [.j] := by
    simp [transmitWire]
  unfold transmit
  simp only [hw, List.foldl_append, List.foldl_cons, List.foldl_nil] at h ⊢
  rw [h]
  simp [driveState, setLine, setDirection]

/-- What sending a packet does, whole. -/
theorem sendPacket_eq (p : List Byte) (s : State) :
    sendPacket p s =
      { s with
        wire := {
          dpDir := .input, dmDir := .input, dpOut := false, dmOut := true
          log := (transmitWire p).reverse ++ s.wire.log }
        env.sent := p :: s.env.sent, irq.sent := true } := by simp only [sendPacket, transmit_eq]

@[simp] theorem sendPacket_usb (p : List Byte) (s : State) : (sendPacket p s).usb = s.usb := by rw [sendPacket_eq]
@[simp] theorem sendPacket_bridge (p : List Byte) (s : State) : (sendPacket p s).bridge = s.bridge := by rw [sendPacket_eq]
@[simp] theorem sendPacket_pins (p : List Byte) (s : State) : (sendPacket p s).pins = s.pins := by rw [sendPacket_eq]
@[simp] theorem sendPacket_cal (p : List Byte) (s : State) : (sendPacket p s).cal = s.cal := by rw [sendPacket_eq]
@[simp] theorem sendPacket_poll (p : List Byte) (s : State) : (sendPacket p s).poll = s.poll := by rw [sendPacket_eq]
@[simp] theorem sendPacket_ram (p : List Byte) (s : State) : (sendPacket p s).ram = s.ram := by rw [sendPacket_eq]

@[simp] theorem isrDone_usb (s : State) : (isrDone s).usb = s.usb := rfl
@[simp] theorem isrDone_bridge (s : State) : (isrDone s).bridge = s.bridge := rfl
@[simp] theorem isrDone_pins (s : State) : (isrDone s).pins = s.pins := rfl
@[simp] theorem isrDone_cal (s : State) : (isrDone s).cal = s.cal := rfl
@[simp] theorem isrDone_poll (s : State) : (isrDone s).poll = s.poll := rfl
@[simp] theorem isrDone_wire (s : State) : (isrDone s).wire = s.wire := rfl
@[simp] theorem isrDone_env (s : State) : (isrDone s).env = s.env := rfl
@[simp] theorem isrDone_ram (s : State) : (isrDone s).ram = s.ram := rfl

@[simp] theorem interruptEntry_usb (s : State) : (interruptEntry s).usb = s.usb := rfl
@[simp] theorem interruptEntry_bridge (s : State) : (interruptEntry s).bridge = s.bridge := rfl
@[simp] theorem interruptEntry_pins (s : State) : (interruptEntry s).pins = s.pins := rfl
@[simp] theorem interruptEntry_cal (s : State) : (interruptEntry s).cal = s.cal := rfl
@[simp] theorem interruptEntry_poll (s : State) : (interruptEntry s).poll = s.poll := rfl
@[simp] theorem interruptEntry_wire (s : State) : (interruptEntry s).wire = s.wire := rfl
@[simp] theorem interruptEntry_ram (s : State) : (interruptEntry s).ram = s.ram := rfl

@[simp] theorem interruptReturn_usb (s : State) : (interruptReturn s).usb = s.usb := rfl
@[simp] theorem interruptReturn_bridge (s : State) : (interruptReturn s).bridge = s.bridge := rfl
@[simp] theorem interruptReturn_pins (s : State) : (interruptReturn s).pins = s.pins := rfl
@[simp] theorem interruptReturn_cal (s : State) : (interruptReturn s).cal = s.cal := rfl
@[simp] theorem interruptReturn_poll (s : State) : (interruptReturn s).poll = s.poll := rfl
@[simp] theorem interruptReturn_wire (s : State) : (interruptReturn s).wire = s.wire := rfl
@[simp] theorem interruptReturn_env (s : State) : (interruptReturn s).env = s.env := rfl
@[simp] theorem interruptReturn_ram (s : State) : (interruptReturn s).ram = s.ram := rfl

@[simp] theorem captureData_bridge (d : List Byte) (s : State) : (captureData d s).bridge = s.bridge := by unfold captureData; split <;> rfl
@[simp] theorem captureData_pins (d : List Byte) (s : State) : (captureData d s).pins = s.pins := by unfold captureData; split <;> rfl
@[simp] theorem captureData_cal (d : List Byte) (s : State) : (captureData d s).cal = s.cal := by unfold captureData; split <;> rfl
@[simp] theorem captureData_irq (d : List Byte) (s : State) : (captureData d s).irq = s.irq := by unfold captureData; split <;> rfl
@[simp] theorem captureData_poll (d : List Byte) (s : State) : (captureData d s).poll = s.poll := by unfold captureData; split <;> rfl
@[simp] theorem captureData_wire (d : List Byte) (s : State) : (captureData d s).wire = s.wire := by unfold captureData; split <;> rfl
@[simp] theorem captureData_env (d : List Byte) (s : State) : (captureData d s).env = s.env := by unfold captureData; split <;> rfl
@[simp] theorem captureData_ram (d : List Byte) (s : State) : (captureData d s).ram = s.ram := by unfold captureData; split <;> rfl

@[simp] theorem publishData_bridge (d : List Byte) (s : State) : (publishData d s).bridge = s.bridge := rfl
@[simp] theorem publishData_pins (d : List Byte) (s : State) : (publishData d s).pins = s.pins := rfl
@[simp] theorem publishData_cal (d : List Byte) (s : State) : (publishData d s).cal = s.cal := rfl
@[simp] theorem publishData_irq (d : List Byte) (s : State) : (publishData d s).irq = s.irq := rfl
@[simp] theorem publishData_poll (d : List Byte) (s : State) : (publishData d s).poll = s.poll := rfl
@[simp] theorem publishData_wire (d : List Byte) (s : State) : (publishData d s).wire = s.wire := rfl
@[simp] theorem publishData_env (d : List Byte) (s : State) : (publishData d s).env = s.env := rfl
@[simp] theorem publishData_ram (d : List Byte) (s : State) : (publishData d s).ram = s.ram := rfl

@[simp] theorem hostMove_usb (e : HostEvent) (s : State) : (hostMove e s).usb = s.usb := by cases e <;> simp only [hostMove] <;> split <;> rfl
@[simp] theorem hostMove_bridge (e : HostEvent) (s : State) : (hostMove e s).bridge = s.bridge := by cases e <;> simp only [hostMove] <;> split <;> rfl
@[simp] theorem hostMove_pins (e : HostEvent) (s : State) : (hostMove e s).pins = s.pins := by cases e <;> simp only [hostMove] <;> split <;> rfl
@[simp] theorem hostMove_cal (e : HostEvent) (s : State) : (hostMove e s).cal = s.cal := by cases e <;> simp only [hostMove] <;> split <;> rfl
@[simp] theorem hostMove_poll (e : HostEvent) (s : State) : (hostMove e s).poll = s.poll := by cases e <;> simp only [hostMove] <;> split <;> rfl
@[simp] theorem hostMove_wire (e : HostEvent) (s : State) : (hostMove e s).wire = s.wire := by cases e <;> simp only [hostMove] <;> split <;> rfl
@[simp] theorem hostMove_ram (e : HostEvent) (s : State) : (hostMove e s).ram = s.ram := by cases e <;> simp only [hostMove] <;> split <;> rfl

@[simp] theorem hostTick_usb (s : State) : (hostTick s).usb = s.usb := by unfold hostTick; split <;> simp
@[simp] theorem hostTick_bridge (s : State) : (hostTick s).bridge = s.bridge := by unfold hostTick; split <;> simp
@[simp] theorem hostTick_pins (s : State) : (hostTick s).pins = s.pins := by unfold hostTick; split <;> simp
@[simp] theorem hostTick_cal (s : State) : (hostTick s).cal = s.cal := by unfold hostTick; split <;> simp
@[simp] theorem hostTick_poll (s : State) : (hostTick s).poll = s.poll := by unfold hostTick; split <;> simp
@[simp] theorem hostTick_wire (s : State) : (hostTick s).wire = s.wire := by unfold hostTick; split <;> simp
@[simp] theorem hostTick_ram (s : State) : (hostTick s).ram = s.ram := by unfold hostTick; split <;> simp

@[simp] theorem busTick_usb (s : State) : (busTick s).usb = s.usb := by unfold busTick; split <;> rfl
@[simp] theorem busTick_bridge (s : State) : (busTick s).bridge = s.bridge := by unfold busTick; split <;> rfl
@[simp] theorem busTick_pins (s : State) : (busTick s).pins = s.pins := by unfold busTick; split <;> rfl
@[simp] theorem busTick_cal (s : State) : (busTick s).cal = s.cal := by unfold busTick; split <;> rfl
@[simp] theorem busTick_irq (s : State) : (busTick s).irq = s.irq := by unfold busTick; split <;> rfl
@[simp] theorem busTick_poll (s : State) : (busTick s).poll = s.poll := by unfold busTick; split <;> rfl
@[simp] theorem busTick_wire (s : State) : (busTick s).wire = s.wire := by unfold busTick; split <;> rfl
@[simp] theorem busTick_ram (s : State) : (busTick s).ram = s.ram := by unfold busTick; split <;> rfl

@[simp] theorem tick_usb (s : State) : (tick s).usb = s.usb := by simp [tick]
@[simp] theorem tick_bridge (s : State) : (tick s).bridge = s.bridge := by simp [tick]
@[simp] theorem tick_pins (s : State) : (tick s).pins = s.pins := by simp [tick]
@[simp] theorem tick_cal (s : State) : (tick s).cal = s.cal := by simp [tick]
@[simp] theorem tick_poll (s : State) : (tick s).poll = s.poll := by simp [tick]
@[simp] theorem tick_wire (s : State) : (tick s).wire = s.wire := by simp [tick]
@[simp] theorem tick_ram (s : State) : (tick s).ram = s.ram := by simp [tick]

@[simp] theorem putTx_bridge (j : Nat) (b : Byte) (s : State) : (putTx j b s).bridge = s.bridge := rfl
@[simp] theorem putTx_pins (j : Nat) (b : Byte) (s : State) : (putTx j b s).pins = s.pins := rfl
@[simp] theorem putTx_cal (j : Nat) (b : Byte) (s : State) : (putTx j b s).cal = s.cal := rfl
@[simp] theorem putTx_irq (j : Nat) (b : Byte) (s : State) : (putTx j b s).irq = s.irq := rfl
@[simp] theorem putTx_poll (j : Nat) (b : Byte) (s : State) : (putTx j b s).poll = s.poll := rfl
@[simp] theorem putTx_wire (j : Nat) (b : Byte) (s : State) : (putTx j b s).wire = s.wire := rfl
@[simp] theorem putTx_env (j : Nat) (b : Byte) (s : State) : (putTx j b s).env = s.env := rfl
@[simp] theorem putTx_ram (j : Nat) (b : Byte) (s : State) : (putTx j b s).ram = s.ram := rfl

@[simp] theorem cursorToReply_bridge (s : State) : (cursorToReply s).bridge = s.bridge := rfl
@[simp] theorem cursorToReply_pins (s : State) : (cursorToReply s).pins = s.pins := rfl
@[simp] theorem cursorToReply_cal (s : State) : (cursorToReply s).cal = s.cal := rfl
@[simp] theorem cursorToReply_irq (s : State) : (cursorToReply s).irq = s.irq := rfl
@[simp] theorem cursorToReply_poll (s : State) : (cursorToReply s).poll = s.poll := rfl
@[simp] theorem cursorToReply_wire (s : State) : (cursorToReply s).wire = s.wire := rfl
@[simp] theorem cursorToReply_env (s : State) : (cursorToReply s).env = s.env := rfl
@[simp] theorem cursorToReply_ram (s : State) : (cursorToReply s).ram = s.ram := rfl

@[simp] theorem decRemaining_usb (s : State) : (decRemaining s).usb = s.usb := rfl
@[simp] theorem decRemaining_pins (s : State) : (decRemaining s).pins = s.pins := rfl
@[simp] theorem decRemaining_cal (s : State) : (decRemaining s).cal = s.cal := rfl
@[simp] theorem decRemaining_irq (s : State) : (decRemaining s).irq = s.irq := rfl
@[simp] theorem decRemaining_poll (s : State) : (decRemaining s).poll = s.poll := rfl
@[simp] theorem decRemaining_wire (s : State) : (decRemaining s).wire = s.wire := rfl
@[simp] theorem decRemaining_env (s : State) : (decRemaining s).env = s.env := rfl
@[simp] theorem decRemaining_ram (s : State) : (decRemaining s).ram = s.ram := rfl

@[simp] theorem calKeep_usb (s : State) : (calKeep s).usb = s.usb := by unfold calKeep; split <;> rfl
@[simp] theorem calKeep_bridge (s : State) : (calKeep s).bridge = s.bridge := by unfold calKeep; split <;> rfl
@[simp] theorem calKeep_pins (s : State) : (calKeep s).pins = s.pins := by unfold calKeep; split <;> rfl
@[simp] theorem calKeep_irq (s : State) : (calKeep s).irq = s.irq := by unfold calKeep; split <;> rfl
@[simp] theorem calKeep_poll (s : State) : (calKeep s).poll = s.poll := by unfold calKeep; split <;> rfl
@[simp] theorem calKeep_wire (s : State) : (calKeep s).wire = s.wire := by unfold calKeep; split <;> rfl
@[simp] theorem calKeep_env (s : State) : (calKeep s).env = s.env := by unfold calKeep; split <;> rfl
@[simp] theorem calKeep_ram (s : State) : (calKeep s).ram = s.ram := by unfold calKeep; split <;> rfl

@[simp] theorem suspend_usb (ops : List MicroOp) (s : State) : (suspend ops s).usb = s.usb := rfl
@[simp] theorem suspend_bridge (ops : List MicroOp) (s : State) : (suspend ops s).bridge = s.bridge := rfl
@[simp] theorem suspend_pins (ops : List MicroOp) (s : State) : (suspend ops s).pins = s.pins := rfl
@[simp] theorem suspend_cal (ops : List MicroOp) (s : State) : (suspend ops s).cal = s.cal := rfl
@[simp] theorem suspend_irq (ops : List MicroOp) (s : State) : (suspend ops s).irq = s.irq := rfl
@[simp] theorem suspend_wire (ops : List MicroOp) (s : State) : (suspend ops s).wire = s.wire := rfl
@[simp] theorem suspend_env (ops : List MicroOp) (s : State) : (suspend ops s).env = s.env := rfl
@[simp] theorem suspend_ram (ops : List MicroOp) (s : State) : (suspend ops s).ram = s.ram := rfl

/-! ### Parts that an update changes only in part -/

@[simp] theorem suspend_phase (ops : List MicroOp) (s : State) : (suspend ops s).poll.phase = s.poll.phase := rfl
@[simp] theorem suspend_cont (ops : List MicroOp) (s : State) : (suspend ops s).poll.cont = ops ++ s.poll.cont := rfl
@[simp] theorem suspend_nil (s : State) : suspend [] s = s := rfl

@[simp] theorem tick_enable (s : State) : (tick s).irq.enable = s.irq.enable := by
  simp only [tick, busTick_irq]
  unfold hostTick
  split
  · rfl
  · rename_i e _ _; cases e <;> simp only [hostMove] <;> split <;> rfl

@[simp] theorem tick_active (s : State) : (tick s).irq.active = s.irq.active := by
  simp only [tick, busTick_irq]
  unfold hostTick
  split
  · rfl
  · rename_i e _ _; cases e <;> simp only [hostMove] <;> split <;> rfl

@[simp] theorem tick_token (s : State) : (tick s).irq.token = s.irq.token := by
  simp only [tick, busTick_irq]
  unfold hostTick
  split
  · rfl
  · rename_i e _ _; cases e <;> simp only [hostMove] <;> split <;> rfl

@[simp] theorem tick_rx (s : State) : (tick s).irq.rx = s.irq.rx := by
  simp only [tick, busTick_irq]
  unfold hostTick
  split
  · rfl
  · rename_i e _ _; cases e <;> simp only [hostMove] <;> split <;> rfl

@[simp] theorem tick_sent (s : State) : (tick s).env.sent = s.env.sent := by
  have hb : ∀ u : State, (busTick u).env.sent = u.env.sent := fun u => by unfold busTick; split <;> rfl
  simp only [tick, hb]
  unfold hostTick
  split
  · rfl
  · rename_i e _ _; cases e <;> simp only [hostMove] <;> split <;> rfl

/-- A move of the environment never clears the latch of the DM edge (R44). -/
theorem tick_latched (s : State) (h : s.irq.pending = true) : (tick s).irq.pending = true := by
  simp only [tick, busTick_irq]
  unfold hostTick
  split
  · exact h
  · rename_i e _ _; cases e <;> simp only [hostMove] <;> first | exact h | (split <;> first | exact h | rfl)

/-- With both scripts empty the environment does not move. -/
theorem tick_quiet (s : State) (hh : s.env.host = []) (hb : s.env.bus = []) : tick s = s := by
  simp [tick, hostTick, busTick, hh, hb]

end Sys2Proof.Machine
end

