-- ==== Sys2Proof/Laws/Memory.lean ====
section
/-! SUPPORT. The laws of the RAM space: every operation keeps the canonical form, a byte reads as it was last written,
and every other address reads as before; and the reply buffer lies inside the space. -/

namespace Sys2Proof.Machine

theorem Memory.wfFrom_mono {lo lo' : Nat} (m : Memory) (h : lo' ≤ lo) (hm : Memory.wfFrom lo m = true) :
    Memory.wfFrom lo' m = true := by
  cases m with
  | nil => rfl
  | cons c rest =>
    simp only [Memory.wfFrom, Bool.and_eq_true, decide_eq_true_eq] at hm ⊢
    exact ⟨⟨⟨by omega, hm.1.1.2⟩, hm.1.2⟩, hm.2⟩

/-- An address below every cell reads as an unlisted one. -/
theorem Memory.read_below (m : Memory) (lo a : Nat) (hm : Memory.wfFrom lo m = true) (h : a < lo) :
    Memory.read m a = unlistedByte a := by
  induction m generalizing lo with
  | nil => rfl
  | cons c rest ih =>
    simp only [Memory.wfFrom, Bool.and_eq_true, decide_eq_true_eq] at hm
    have hne : a ≠ c.1 := by omega
    simp only [Memory.read, if_neg hne]
    exact ih (c.1 + 1) hm.2 (by omega)

theorem Memory.cons_wfFrom (lo a : Nat) (b : Byte) (rest : Memory) (hlo : lo ≤ a) (ha : a < 2 ^ Config.cursorBits)
    (hr : Memory.wfFrom (a + 1) rest = true) : Memory.wfFrom lo (Memory.cons a b rest) = true := by
  unfold Memory.cons
  split
  · exact Memory.wfFrom_mono rest (by omega) hr
  · rename_i h
    simp [Memory.wfFrom, hlo, ha, hr, h]

theorem Memory.cons_read (a a' : Nat) (b : Byte) (rest : Memory) (hr : Memory.wfFrom (a + 1) rest = true) :
    Memory.read (Memory.cons a b rest) a' = if a' = a then b else Memory.read rest a' := by
  unfold Memory.cons
  split
  · rename_i hb
    split
    · subst a'; rw [Memory.read_below rest (a + 1) a hr (by omega), hb]
    · rfl
  · rfl

/-- A write keeps the canonical form. -/
theorem Memory.write_wfFrom (m : Memory) (lo a : Nat) (b : Byte) (hlo : lo ≤ a) (ha : a < 2 ^ Config.cursorBits)
    (hm : Memory.wfFrom lo m = true) : Memory.wfFrom lo (Memory.write m a b) = true := by
  induction m generalizing lo with
  | nil => exact Memory.cons_wfFrom lo a b [] hlo ha rfl
  | cons c rest ih =>
    have h := hm
    simp only [Memory.wfFrom, Bool.and_eq_true, decide_eq_true_eq] at h
    simp only [Memory.write]
    split
    · refine Memory.cons_wfFrom lo a b _ hlo ha ?_
      simp only [Memory.wfFrom, Bool.and_eq_true, decide_eq_true_eq]
      exact ⟨⟨⟨by omega, h.1.1.2⟩, h.1.2⟩, h.2⟩
    · split
      · subst a; exact Memory.cons_wfFrom lo c.1 b rest hlo ha h.2
      · simp only [Memory.wfFrom, Bool.and_eq_true, decide_eq_true_eq]
        exact ⟨h.1, ih (c.1 + 1) (by omega) h.2⟩

/-- What a write does to every address. -/
theorem Memory.write_read (m : Memory) (lo a a' : Nat) (b : Byte) (hm : Memory.wfFrom lo m = true) :
    Memory.read (Memory.write m a b) a' = if a' = a then b else Memory.read m a' := by
  induction m generalizing lo with
  | nil =>
    simp only [Memory.write]
    rw [Memory.cons_read a a' b [] rfl]
  | cons c rest ih =>
    have h := hm
    simp only [Memory.wfFrom, Bool.and_eq_true, decide_eq_true_eq] at h
    simp only [Memory.write]
    split
    · refine Memory.cons_read a a' b _ ?_
      simp only [Memory.wfFrom, Bool.and_eq_true, decide_eq_true_eq]
      exact ⟨⟨⟨by omega, h.1.1.2⟩, h.1.2⟩, h.2⟩
    · split
      · subst a
        rw [Memory.cons_read c.1 a' b rest h.2]
        simp only [Memory.read]
        split <;> rfl
      · rename_i hlt hne
        simp only [Memory.read, ih (c.1 + 1) h.2]
        split
        · rename_i heq
          rw [if_neg (by omega)]
        · rfl

/-- A write keeps `Memory.wf`. -/
theorem Memory.write_wf (m : Memory) (a : Nat) (b : Byte) (ha : a < 2 ^ Config.cursorBits) (hm : m.wf = true) :
    (m.write a b).wf = true := Memory.write_wfFrom m 0 a b (Nat.zero_le a) ha hm

/-- A run of writes keeps `Memory.wf`. -/
theorem Memory.writeFrom_wf (bytes : List Byte) (m : Memory) (a : Nat) (hm : m.wf = true) :
    (m.writeFrom a bytes).wf = true := by
  induction bytes generalizing m a with
  | nil => exact hm
  | cons b rest ih =>
    exact ih _ _ (Memory.write_wf m _ b (Nat.mod_lt _ (Nat.two_pow_pos _)) hm)

/-- What a run of writes that stays inside the space does to every address. -/
theorem Memory.writeFrom_read (bytes : List Byte) (m : Memory) (a a' : Nat) (hm : m.wf = true)
    (hfit : a + bytes.length ≤ 2 ^ Config.cursorBits) :
    (m.writeFrom a bytes).read a' = if a ≤ a' ∧ a' < a + bytes.length then bytes.getD (a' - a) 0 else m.read a' := by
  induction bytes generalizing m a with
  | nil =>
    rw [if_neg (by simp only [List.length_nil]; omega)]
    rfl
  | cons b rest ih =>
    simp only [List.length_cons] at hfit ⊢
    have ha : a % 2 ^ Config.cursorBits = a := Nat.mod_eq_of_lt (by omega)
    simp only [Memory.writeFrom, ha]
    rw [ih _ _ (Memory.write_wf m a b (by omega) hm) (by omega), Memory.write_read m 0 a a' b hm]
    by_cases h1 : a' = a
    · subst a'
      rw [if_neg (by omega), if_pos rfl, if_pos (by omega)]
      simp
    · by_cases h2 : a + 1 ≤ a' ∧ a' < a + 1 + rest.length
      · rw [if_pos h2, if_pos (by omega)]
        obtain ⟨k, hk⟩ : ∃ k, a' - a = k + 1 := ⟨a' - a - 1, by omega⟩
        have : a' - (a + 1) = k := by omega
        rw [hk, this]; rfl
      · rw [if_neg h2, if_neg h1, if_neg (by omega)]

/-- The RAM space has at least 4 bytes. -/
theorem Config.four_le_space : 4 ≤ 2 ^ Config.cursorBits := by
  have h : 2 ^ 2 ≤ 2 ^ Config.cursorBits := Nat.pow_le_pow_right (by omega) (by unfold Config.cursorBits; omega)
  simpa using h

/-- The reply buffer has at least 4 bytes (R204's literal replies fit). -/
theorem Config.four_le_replyBufLen : 4 ≤ Config.replyBufLen := by unfold Config.replyBufLen; omega

/-- The reply buffer lies inside the RAM space. -/
theorem Config.replyBuf_fits : Config.replyBase + Config.replyBufLen ≤ 2 ^ Config.cursorBits := by
  have h4 := Config.four_le_space
  have hl : Config.replyBufLen ≤ 2 ^ Config.cursorBits := by
    unfold Config.replyBufLen
    have := Nat.mod_lt Config.replyBufLenRaw (show 0 < 2 ^ Config.cursorBits - 3 by omega)
    omega
  have hb : Config.replyBase < 2 ^ Config.cursorBits - Config.replyBufLen + 1 :=
    Nat.mod_lt _ (by omega)
  omega

/-- The address of a byte of the reply buffer. -/
theorem replyAddr_toNat (j : Nat) (h : j < Config.replyBufLen) : (replyAddr j).toNat = Config.replyBase + j := by
  have := Config.replyBuf_fits
  simp only [replyAddr, BitVec.toNat_ofNat]
  exact Nat.mod_eq_of_lt (by omega)

/-- Storing a reply byte keeps the canonical form. -/
theorem putReply_wf (j : Nat) (b : Byte) (s : State) (h : s.ram.wf = true) : (putReply j b s).ram.wf = true :=
  Memory.write_wf s.ram _ b (replyAddr j).isLt h

/-- The RAM space after reset lists nothing. -/
theorem reset_ram_wf : State.reset.ram.wf = true := rfl

end Sys2Proof.Machine
end

