-- ==== Sys2Proof/Laws/PerInstr.lean ====
section
/-! SUPPORT. The laws stated for each instruction: the encoding of a well-formed instruction is 1 to 11 bytes long, the
longest packet the block stores (R102, R141). -/

namespace Sys2Proof.Laws.EncodedLength

/-- A well-formed instruction is encoded in 1 to 11 bytes. -/
def Statement (i : Instr) : Prop := i.wellFormed = true → 1 ≤ (encode i).2.length ∧ (encode i).2.length ≤ 11

theorem data_length (pid : Byte) (p : List Byte) (c : Half) (h : payloadFits p = true) :
    1 ≤ (dataBytes pid p c).length ∧ (dataBytes pid p c).length ≤ 11 := by
  have h8 : p.length ≤ 8 := by simpa [payloadFits] using h
  simp only [dataBytes, List.length_append, List.length_cons, List.length_nil]
  omega

theorem outToken (a : BitVec 7) (e : BitVec 4) (c : BitVec 5) : Statement (.outToken a e c) :=
  fun _ => ⟨Nat.le_of_ble_eq_true rfl, Nat.le_of_ble_eq_true rfl⟩
theorem inToken (a : BitVec 7) (e : BitVec 4) (c : BitVec 5) : Statement (.inToken a e c) :=
  fun _ => ⟨Nat.le_of_ble_eq_true rfl, Nat.le_of_ble_eq_true rfl⟩
theorem sof (f : BitVec 11) (c : BitVec 5) : Statement (.sof f c) :=
  fun _ => ⟨Nat.le_of_ble_eq_true rfl, Nat.le_of_ble_eq_true rfl⟩
theorem setupToken (a : BitVec 7) (e : BitVec 4) (c : BitVec 5) : Statement (.setupToken a e c) :=
  fun _ => ⟨Nat.le_of_ble_eq_true rfl, Nat.le_of_ble_eq_true rfl⟩
theorem data0 (p : List Byte) (c : Half) : Statement (.data0 p c) := fun h => data_length _ p c h
theorem data1 (p : List Byte) (c : Half) : Statement (.data1 p c) := fun h => data_length _ p c h
theorem ack : Statement .ack :=
  fun _ => ⟨Nat.le_of_ble_eq_true rfl, Nat.le_of_ble_eq_true rfl⟩
theorem nak : Statement .nak :=
  fun _ => ⟨Nat.le_of_ble_eq_true rfl, Nat.le_of_ble_eq_true rfl⟩
theorem stall : Statement .stall :=
  fun _ => ⟨Nat.le_of_ble_eq_true rfl, Nat.le_of_ble_eq_true rfl⟩
theorem pre : Statement .pre :=
  fun _ => ⟨Nat.le_of_ble_eq_true rfl, Nat.le_of_ble_eq_true rfl⟩
theorem stdGetStatus (r : Setup) : Statement (.stdGetStatus r) :=
  fun _ => ⟨Nat.le_of_ble_eq_true rfl, Nat.le_of_ble_eq_true rfl⟩
theorem stdClearFeature (r : Setup) : Statement (.stdClearFeature r) :=
  fun _ => ⟨Nat.le_of_ble_eq_true rfl, Nat.le_of_ble_eq_true rfl⟩
theorem stdSetFeature (r : Setup) : Statement (.stdSetFeature r) :=
  fun _ => ⟨Nat.le_of_ble_eq_true rfl, Nat.le_of_ble_eq_true rfl⟩
theorem stdSetAddress (r : Setup) : Statement (.stdSetAddress r) :=
  fun _ => ⟨Nat.le_of_ble_eq_true rfl, Nat.le_of_ble_eq_true rfl⟩
theorem stdGetDescriptor (r : Setup) : Statement (.stdGetDescriptor r) :=
  fun _ => ⟨Nat.le_of_ble_eq_true rfl, Nat.le_of_ble_eq_true rfl⟩
theorem stdSetDescriptor (r : Setup) : Statement (.stdSetDescriptor r) :=
  fun _ => ⟨Nat.le_of_ble_eq_true rfl, Nat.le_of_ble_eq_true rfl⟩
theorem stdGetConfiguration (r : Setup) : Statement (.stdGetConfiguration r) :=
  fun _ => ⟨Nat.le_of_ble_eq_true rfl, Nat.le_of_ble_eq_true rfl⟩
theorem stdSetConfiguration (r : Setup) : Statement (.stdSetConfiguration r) :=
  fun _ => ⟨Nat.le_of_ble_eq_true rfl, Nat.le_of_ble_eq_true rfl⟩
theorem stdGetInterface (r : Setup) : Statement (.stdGetInterface r) :=
  fun _ => ⟨Nat.le_of_ble_eq_true rfl, Nat.le_of_ble_eq_true rfl⟩
theorem stdSetInterface (r : Setup) : Statement (.stdSetInterface r) :=
  fun _ => ⟨Nat.le_of_ble_eq_true rfl, Nat.le_of_ble_eq_true rfl⟩
theorem stdSynchFrame (r : Setup) : Statement (.stdSynchFrame r) :=
  fun _ => ⟨Nat.le_of_ble_eq_true rfl, Nat.le_of_ble_eq_true rfl⟩
theorem stdOther (q : Byte) (r : Setup) : Statement (.stdOther q r) :=
  fun _ => ⟨Nat.le_of_ble_eq_true rfl, Nat.le_of_ble_eq_true rfl⟩
theorem vendorEcho (r : Setup) : Statement (.vendorEcho r) :=
  fun _ => ⟨Nat.le_of_ble_eq_true rfl, Nat.le_of_ble_eq_true rfl⟩
theorem vendorGetFunc (r : Setup) : Statement (.vendorGetFunc r) :=
  fun _ => ⟨Nat.le_of_ble_eq_true rfl, Nat.le_of_ble_eq_true rfl⟩
theorem vendorSetDelay (r : Setup) : Statement (.vendorSetDelay r) :=
  fun _ => ⟨Nat.le_of_ble_eq_true rfl, Nat.le_of_ble_eq_true rfl⟩
theorem vendorGetStatus (r : Setup) : Statement (.vendorGetStatus r) :=
  fun _ => ⟨Nat.le_of_ble_eq_true rfl, Nat.le_of_ble_eq_true rfl⟩
theorem vendorI2cIo (b e : Bool) (r : Setup) : Statement (.vendorI2cIo b e r) :=
  fun _ => ⟨Nat.le_of_ble_eq_true rfl, Nat.le_of_ble_eq_true rfl⟩
theorem vendorUnknown (q : Byte) (r : Setup) : Statement (.vendorUnknown q r) :=
  fun _ => ⟨Nat.le_of_ble_eq_true rfl, Nat.le_of_ble_eq_true rfl⟩
theorem classEcho (r : Setup) : Statement (.classEcho r) :=
  fun _ => ⟨Nat.le_of_ble_eq_true rfl, Nat.le_of_ble_eq_true rfl⟩
theorem classGetFunc (r : Setup) : Statement (.classGetFunc r) :=
  fun _ => ⟨Nat.le_of_ble_eq_true rfl, Nat.le_of_ble_eq_true rfl⟩
theorem classSetDelay (r : Setup) : Statement (.classSetDelay r) :=
  fun _ => ⟨Nat.le_of_ble_eq_true rfl, Nat.le_of_ble_eq_true rfl⟩
theorem classGetStatus (r : Setup) : Statement (.classGetStatus r) :=
  fun _ => ⟨Nat.le_of_ble_eq_true rfl, Nat.le_of_ble_eq_true rfl⟩
theorem classI2cIo (b e : Bool) (r : Setup) : Statement (.classI2cIo b e r) :=
  fun _ => ⟨Nat.le_of_ble_eq_true rfl, Nat.le_of_ble_eq_true rfl⟩
theorem classUnknown (q : Byte) (r : Setup) : Statement (.classUnknown q r) :=
  fun _ => ⟨Nat.le_of_ble_eq_true rfl, Nat.le_of_ble_eq_true rfl⟩
theorem reservedType (q : Byte) (r : Setup) : Statement (.reservedType q r) :=
  fun _ => ⟨Nat.le_of_ble_eq_true rfl, Nat.le_of_ble_eq_true rfl⟩
theorem i2cReserved0 (d : Byte) : Statement (.i2cReserved0 d) :=
  fun _ => ⟨Nat.le_of_ble_eq_true rfl, Nat.le_of_ble_eq_true rfl⟩
theorem i2cStart (d : Byte) : Statement (.i2cStart d) :=
  fun _ => ⟨Nat.le_of_ble_eq_true rfl, Nat.le_of_ble_eq_true rfl⟩
theorem i2cRstart (d : Byte) : Statement (.i2cRstart d) :=
  fun _ => ⟨Nat.le_of_ble_eq_true rfl, Nat.le_of_ble_eq_true rfl⟩
theorem i2cStop (d : Byte) : Statement (.i2cStop d) :=
  fun _ => ⟨Nat.le_of_ble_eq_true rfl, Nat.le_of_ble_eq_true rfl⟩
theorem i2cWrite (d : Byte) : Statement (.i2cWrite d) :=
  fun _ => ⟨Nat.le_of_ble_eq_true rfl, Nat.le_of_ble_eq_true rfl⟩
theorem i2cReadAck (d : Byte) : Statement (.i2cReadAck d) :=
  fun _ => ⟨Nat.le_of_ble_eq_true rfl, Nat.le_of_ble_eq_true rfl⟩
theorem i2cReadNak (d : Byte) : Statement (.i2cReadNak d) :=
  fun _ => ⟨Nat.le_of_ble_eq_true rfl, Nat.le_of_ble_eq_true rfl⟩
theorem i2cReserved7 (d : Byte) : Statement (.i2cReserved7 d) :=
  fun _ => ⟨Nat.le_of_ble_eq_true rfl, Nat.le_of_ble_eq_true rfl⟩
theorem calReserved0 : Statement .calReserved0 :=
  fun _ => ⟨Nat.le_of_ble_eq_true rfl, Nat.le_of_ble_eq_true rfl⟩
theorem calRun : Statement .calRun :=
  fun _ => ⟨Nat.le_of_ble_eq_true rfl, Nat.le_of_ble_eq_true rfl⟩
theorem calLoad : Statement .calLoad :=
  fun _ => ⟨Nat.le_of_ble_eq_true rfl, Nat.le_of_ble_eq_true rfl⟩
theorem calReserved3 : Statement .calReserved3 :=
  fun _ => ⟨Nat.le_of_ble_eq_true rfl, Nat.le_of_ble_eq_true rfl⟩

end Sys2Proof.Laws.EncodedLength
end

