-- ==== Sys2Proof/Laws/Running.lean ====
section
/-! SUPPORT. What a step can do, once for all its cases: the ways a step goes, what an atomic step of POLL leaves alone,
and how a list of atomic steps runs. -/

namespace Sys2Proof.Machine

/-! ### An atomic step -/

theorem issue_go {ops : Option (List MicroOp)} {s t : State} {more : List MicroOp} (h : issue ops s = .go more t) :
    ops = some more ∧ t = s := by
  unfold issue at h
  split at h
  · cases h; exact ⟨rfl, rfl⟩
  · cases h

/-- What an atomic step leaves alone: POLL's continuation and its phase but for a `goto`, the ISR's own state, the
receive buffers, the USB lines, and the environment but for the marker a measurement takes. -/
theorem microStep_frame {op : MicroOp} {s t : State} {more : List MicroOp} (h : microStep op s = .go more t) :
    t.poll.cont = s.poll.cont ∧ t.irq = { s.irq with enable := t.irq.enable } ∧
      t.env = { s.env with marker := t.env.marker } ∧ t.usb.rxBuf0 = s.usb.rxBuf0 ∧ t.usb.rxBuf1 = s.usb.rxBuf1 ∧
      t.usb.rxSel = s.usb.rxSel ∧ t.usb.rxToken = s.usb.rxToken ∧ t.cal.nvSerial = s.cal.nvSerial ∧ t.wire = s.wire := by
  cases op
  case dispatch => cases h
  case i2cCmd => obtain ⟨-, rfl⟩ := issue_go h; exact ⟨rfl, rfl, rfl, rfl, rfl, rfl, rfl, rfl, rfl⟩
  case calCmd => obtain ⟨-, rfl⟩ := issue_go h; exact ⟨rfl, rfl, rfl, rfl, rfl, rfl, rfl, rfl, rfl⟩
  case setDirection l m => cases h; cases l <;> exact ⟨rfl, rfl, rfl, rfl, rfl, rfl, rfl, rfl, rfl⟩
  case setLine l v => cases h; cases l <;> exact ⟨rfl, rfl, rfl, rfl, rfl, rfl, rfl, rfl, rfl⟩
  case endIfShort k =>
    simp only [microStep, done] at h; cases h; split <;> exact ⟨rfl, rfl, rfl, rfl, rfl, rfl, rfl, rfl, rfl⟩
  case noteWriteAck => simp only [microStep, done] at h; cases h; split <;> exact ⟨rfl, rfl, rfl, rfl, rfl, rfl, rfl, rfl, rfl⟩
  case rstartCheck =>
    simp only [microStep] at h; split at h
    · cases h; exact ⟨rfl, rfl, rfl, rfl, rfl, rfl, rfl, rfl, rfl⟩
    · cases h
  case waitScl =>
    simp only [microStep] at h; split at h
    · cases h; exact ⟨rfl, rfl, rfl, rfl, rfl, rfl, rfl, rfl, rfl⟩
    · cases h
  case measureOpen =>
    simp only [microStep] at h; split at h
    · cases h; exact ⟨rfl, rfl, rfl, rfl, rfl, rfl, rfl, rfl, rfl⟩
    · cases h
  case measureEnd =>
    simp only [microStep] at h; split at h
    · cases h; exact ⟨rfl, rfl, rfl, rfl, rfl, rfl, rfl, rfl, rfl⟩
    · cases h
  case calKeep => cases h; unfold calKeep; split <;> exact ⟨rfl, rfl, rfl, rfl, rfl, rfl, rfl, rfl, rfl⟩
  all_goals cases h; exact ⟨rfl, rfl, rfl, rfl, rfl, rfl, rfl, rfl, rfl⟩

/-! ### A list of atomic steps -/

@[simp] theorem runOps_nil (n : Nat) (s : State) : runOps n [] s = .next s := by unfold runOps; rfl

/-- A step that is done, with no interrupt due before it: the list goes on after the environment has moved. -/
theorem runOps_go {n : Nat} {op : MicroOp} {rest more : List MicroOp} {s t : State} (hi : interruptDue s = false)
    (h : microStep op s = .go more t) : runOps (n + 1) (op :: rest) s = runOps n (more ++ rest) (tick t) := by
  simp [runOps, hi, h]

/-- An interrupt that is due leaves the whole rest of the list as POLL's continuation. -/
theorem runOps_due {n : Nat} {op : MicroOp} {rest : List MicroOp} {s : State} (hi : interruptDue s = true) :
    runOps (n + 1) (op :: rest) s = .next (suspend (op :: rest) s) := by simp [runOps, hi]

/-- A step that holds leaves itself and the rest as POLL's continuation. -/
theorem runOps_hold {n : Nat} {op : MicroOp} {rest : List MicroOp} {s : State} (hi : interruptDue s = false)
    (h : microStep op s = .hold) : runOps (n + 1) (op :: rest) s = .next (suspend (op :: rest) (tick s)) := by
  simp [runOps, hi, h]

/-- A property of the pending steps and the state that every atomic step and every wait keeps: where an operation
answers a next state, that is a state with the property, its pending steps made POLL's continuation. -/
theorem runOps_invariant (P : List MicroOp → State → Prop)
    (hgo : ∀ op rest s more s', P (op :: rest) s → interruptDue s = false → microStep op s = .go more s' →
      P (more ++ rest) (tick s'))
    (hhold : ∀ op rest s, P (op :: rest) s → microStep op s = .hold → P (op :: rest) (tick s)) :
    ∀ (n : Nat) (ops : List MicroOp) (s t : State), P ops s → runOps n ops s = .next t →
      ∃ ops' s', P ops' s' ∧ t = suspend ops' s' := by
  intro n
  induction n with
  | zero =>
    intro ops s t hp h
    cases ops with
    | nil => exact ⟨[], s, hp, by simpa using h.symm⟩
    | cons op rest => exact ⟨op :: rest, s, hp, by simpa [runOps] using h.symm⟩
  | succ n ih =>
    intro ops s t hp h
    cases ops with
    | nil => exact ⟨[], s, hp, by simpa using h.symm⟩
    | cons op rest =>
      by_cases hi : interruptDue s = true
      · exact ⟨op :: rest, s, hp, by simpa [runOps_due hi] using h.symm⟩
      · have hi' : interruptDue s = false := by simpa using hi
        cases hm : microStep op s with
        | go more s' => exact ih _ _ t (hgo op rest s more s' hp hi' hm) (by rw [← runOps_go hi' hm]; exact h)
        | hold => exact ⟨op :: rest, tick s, hhold op rest s hp hm, by simpa [runOps_hold hi' hm] using h.symm⟩
        | fault f => simp [runOps, hi', hm] at h

/-! ### A step of the machine -/

/-- After an instruction that answers a next state the environment has moved: once more for a packet of the ISR. -/
theorem afterRun_next {port : Port} {out : Host.Outcome State Fault Refusal} {t : State}
    (h : afterRun port out = .next t) : ∃ u, out = .next u ∧ t = if port = .usb then tick u else u := by
  unfold afterRun at h
  split at h
  · cases h; exact ⟨_, rfl, by simp⟩
  · rename_i hne
    refine ⟨t, h, ?_⟩
    split
    · exact absurd h (hne t ‹_›)
    · rfl

/-- The ways a step goes: the ISR's return, an activation that finds no packet, the interrupt's entry, an instruction
read at a port, bytes that spell none, and an atomic step of POLL. -/
theorem step_cases {s t : State} (h : step s = .next t) :
    (s.irq.active = true ∧ s.irq.rx = [] ∧ t = tick (interruptReturn s)) ∨
    (∃ p rest, s.irq.active = true ∧ s.irq.rx = p :: rest ∧ p.received = none ∧ t = tick (isrDone s)) ∨
    (s.irq.active = false ∧ interruptDue s = true ∧ t = tick (interruptEntry s)) ∨
    (∃ port bytes s0 i u, nextAction s = .run port bytes s0 ∧ decode port bytes = .ok i ∧ exec i s0 = .next u ∧
      t = if port = .usb then tick u else u) ∨
    (∃ port bytes s0 e, nextAction s = .run port bytes s0 ∧ decode port bytes = .error e ∧ t = dropBytes port s0) ∨
    (∃ op rest s0, s.irq.active = false ∧ interruptDue s = false ∧ nextAction s = .micro op rest s0 ∧
      pollMicro op rest s0 = .next t) := by
  unfold step at h
  cases ha : s.irq.active with
  | true =>
    have hn : nextAction s = isrAction s := by simp [nextAction, ha]
    rw [hn] at h
    unfold isrAction at h
    cases hr : s.irq.rx with
    | nil => simp only [hr] at h; cases h; exact .inl ⟨rfl, rfl, rfl⟩
    | cons p rest =>
      simp only [hr] at h
      cases hp : p.received with
      | none => simp only [hp] at h; cases h; exact .inr (.inl ⟨p, rest, rfl, rfl, hp, rfl⟩)
      | some bytes =>
        simp only [hp] at h
        have hrun : nextAction s = .run .usb bytes { s with irq.rx := rest } := by
          rw [hn]; simp [isrAction, hr, hp]
        cases hd : decode .usb bytes with
        | ok i =>
          simp only [hd] at h; obtain ⟨u, hu, rfl⟩ := afterRun_next h
          exact .inr (.inr (.inr (.inl ⟨_, _, _, i, u, hrun, hd, hu, rfl⟩)))
        | error e =>
          simp only [hd] at h; cases h
          exact .inr (.inr (.inr (.inr (.inl ⟨_, _, _, e, hrun, hd, rfl⟩))))
  | false =>
    cases hi : interruptDue s with
    | true =>
      have hn : nextAction s = .interrupt s := by simp [nextAction, ha, hi]
      rw [hn] at h; cases h
      exact .inr (.inr (.inl ⟨rfl, rfl, rfl⟩))
    | false =>
      have hn : nextAction s = pollAction s := by simp [nextAction, ha, hi]
      cases hq : nextAction s with
      | run port bytes s0 =>
        simp only [hq] at h
        cases hd : decode port bytes with
        | ok i =>
          simp only [hd] at h; obtain ⟨u, hu, rfl⟩ := afterRun_next h
          exact .inr (.inr (.inr (.inl ⟨_, _, _, i, u, rfl, hd, hu, rfl⟩)))
        | error e =>
          simp only [hd] at h; cases h
          exact .inr (.inr (.inr (.inr (.inl ⟨_, _, _, e, rfl, hd, rfl⟩))))
      | micro op rest s0 =>
        simp only [hq] at h
        exact .inr (.inr (.inr (.inr (.inr ⟨op, rest, s0, rfl, rfl, rfl, h⟩))))
      | isrReturn s0 => rw [hn] at hq; unfold pollAction at hq; split at hq <;> try cases hq
                        all_goals (dsimp only at hq; split at hq <;> cases hq)
      | isrIgnore s0 => rw [hn] at hq; unfold pollAction at hq; split at hq <;> try cases hq
                        all_goals (dsimp only at hq; split at hq <;> cases hq)
      | interrupt s0 => rw [hn] at hq; unfold pollAction at hq; split at hq <;> try cases hq
                        all_goals (dsimp only at hq; split at hq <;> cases hq)

/-- An atomic step of POLL outside an instruction: it is done and its further steps come first, or it holds. -/
theorem pollMicro_cases {op : MicroOp} {rest : List MicroOp} {s t : State} (h : pollMicro op rest s = .next t) :
    (∃ more s', microStep op s = .go more s' ∧ t = tick { s' with poll.cont := more ++ rest }) ∨
    (microStep op s = .hold ∧ t = tick { s with poll.cont := op :: rest }) := by
  unfold pollMicro at h
  cases hm : microStep op s with
  | go more s' => simp only [hm] at h; cases h; exact .inl ⟨more, s', rfl, rfl⟩
  | hold => simp only [hm] at h; cases h; exact .inr ⟨rfl, rfl⟩
  | fault f => simp only [hm] at h; cases h

end Sys2Proof.Machine
end

