-- ==== Sys2Proof/Tests/Slice0.lean ====
section
/-! SUPPORT. The model's own tests: the well-formedness smoke, the decoding of every constructor from words written out
from the spec's tables, check values, single steps against the vectors of 95_test_vectors.md, and a witness for
every statement that has hypotheses. -/

namespace Sys2Proof.Tests

open Sys2Proof Sys2Proof.Machine

/-! ### Well-formedness: an ill-formed term for each check -/

theorem test_data0_nine_bytes_ill_formed : (Instr.data0 (List.replicate 9 0) 0).wellFormed = false := by decide
theorem test_data1_nine_bytes_ill_formed : (Instr.data1 (List.replicate 9 0) 0).wellFormed = false := by decide
theorem test_stdOther_named_code_ill_formed : (Instr.stdOther 0x0C ⟨false, 0, 0, 0, 0⟩).wellFormed = false := by decide
theorem test_vendorUnknown_known_code_ill_formed : (Instr.vendorUnknown 7 ⟨false, 0, 0, 0, 0⟩).wellFormed = false := by decide
theorem test_classUnknown_known_code_ill_formed : (Instr.classUnknown 7 ⟨false, 0, 0, 0, 0⟩).wellFormed = false := by decide
theorem test_i2c_data_ill_formed :
    [Instr.i2cReserved0 1, .i2cStart 1, .i2cRstart 1, .i2cStop 1, .i2cReadAck 1, .i2cReadNak 1, .i2cReserved7 1].all
      (fun i => !i.wellFormed) = true := by decide

/-! ### Decoding: a word of every constructor, from R102 and R103 and the vectors V-TOK and V-CRC -/

theorem test_decode_outToken : decode .usb [0xE1, 0x15, 0xEF] = .ok (.outToken 0x15 0xE 0x1D) := by rfl  -- V-TOK-9
theorem test_decode_inToken : decode .usb [0x69, 0x7F, 0x28] = .ok (.inToken 0x7F 0 0x05) := by rfl  -- V-TOK-8
theorem test_decode_sof : decode .usb [0xA5, 0x01, 0xE8] = .ok (.sof 0x001 0x1D) := by rfl  -- R102
theorem test_decode_setupToken : decode .usb [0x2D, 0x80, 0xA0] = .ok (.setupToken 0 1 0x14) := by rfl  -- V-TOK-7
theorem test_decode_data0 : decode .usb [0xC3, 0x34, 0x12, 0x68, 0x82] = .ok (.data0 [0x34, 0x12] 0x8268) := by rfl  -- V-CRC-6
theorem test_decode_data1 : decode .usb [0x4B, 0x00, 0x00] = .ok (.data1 [] 0x0000) := by rfl  -- V-CRC-1
theorem test_decode_ack : decode .usb [0xD2] = .ok .ack := by rfl
theorem test_decode_nak : decode .usb [0x5A] = .ok .nak := by rfl
theorem test_decode_stall : decode .usb [0x1E] = .ok .stall := by rfl
theorem test_decode_pre : decode .usb [0x3C] = .ok .pre := by rfl
theorem test_decode_bad_nibble : decode .usb [0x2C, 0x05, 0xD0] = .error .invalidPid := by rfl  -- V-TF-7
theorem test_decode_short_token : decode .usb [0x2D, 0x05] = .error .tokenLength := by rfl  -- V-TF-4

/-! ### Requests, from R107 to R109 and the vectors V-SU -/

theorem test_decode_stdGetStatus :
    decode .request [0x80, 0x00, 0x00, 0x00, 0x00, 0x00, 0x02, 0x00] = .ok (.stdGetStatus ⟨true, 0, 0, 0, 2⟩) := by rfl  -- V-SU-4
theorem test_decode_stdClearFeature :
    decode .request [0x02, 0x01, 0x00, 0x00, 0x81, 0x00, 0x00, 0x00] = .ok (.stdClearFeature ⟨false, 2, 0, 0x81, 0⟩) := by rfl
theorem test_decode_stdSetFeature :
    decode .request [0x00, 0x03, 0x01, 0x00, 0x00, 0x00, 0x00, 0x00] = .ok (.stdSetFeature ⟨false, 0, 1, 0, 0⟩) := by rfl
theorem test_decode_stdSetAddress :
    decode .request [0x00, 0x05, 0x05, 0x00, 0x00, 0x00, 0x00, 0x00] = .ok (.stdSetAddress ⟨false, 0, 5, 0, 0⟩) := by rfl  -- V-SU-3
theorem test_decode_stdGetDescriptor :
    decode .request [0x80, 0x06, 0x00, 0x01, 0x00, 0x00, 0x40, 0x00] = .ok (.stdGetDescriptor ⟨true, 0, 0x0100, 0, 0x40⟩) := by
  rfl  -- V-SU-1
theorem test_decode_stdSetDescriptor :
    decode .request [0x00, 0x07, 0x02, 0x03, 0x00, 0x00, 0x00, 0x00] = .ok (.stdSetDescriptor ⟨false, 0, 0x0302, 0, 0⟩) := by rfl
theorem test_decode_stdGetConfiguration :
    decode .request [0x80, 0x08, 0x00, 0x00, 0x00, 0x00, 0x01, 0x00] = .ok (.stdGetConfiguration ⟨true, 0, 0, 0, 1⟩) := by
  rfl  -- V-SU-5
theorem test_decode_stdSetConfiguration :
    decode .request [0x00, 0x09, 0x01, 0x00, 0x00, 0x00, 0x00, 0x00] = .ok (.stdSetConfiguration ⟨false, 0, 1, 0, 0⟩) := by
  rfl  -- the example of R210
theorem test_decode_stdGetInterface :
    decode .request [0x81, 0x0A, 0x00, 0x00, 0x00, 0x00, 0x01, 0x00] = .ok (.stdGetInterface ⟨true, 1, 0, 0, 1⟩) := by rfl
theorem test_decode_stdSetInterface :
    decode .request [0x01, 0x0B, 0x00, 0x00, 0x00, 0x00, 0x00, 0x00] = .ok (.stdSetInterface ⟨false, 1, 0, 0, 0⟩) := by rfl
theorem test_decode_stdSynchFrame :
    decode .request [0x82, 0x0C, 0x00, 0x00, 0x81, 0x00, 0x02, 0x00] = .ok (.stdSynchFrame ⟨true, 2, 0, 0x81, 2⟩) := by rfl
theorem test_decode_stdOther :
    decode .request [0x00, 0x0D, 0x34, 0x12, 0x78, 0x56, 0x00, 0x01] = .ok (.stdOther 0x0D ⟨false, 0, 0x1234, 0x5678, 0x100⟩) := by
  rfl
theorem test_decode_vendorEcho :
    decode .request [0xC1, 0x00, 0x34, 0x12, 0x00, 0x00, 0x02, 0x00] = .ok (.vendorEcho ⟨true, 1, 0x1234, 0, 2⟩) := by rfl  -- V-SU-11
theorem test_decode_vendorGetFunc :
    decode .request [0xC1, 0x01, 0x00, 0x00, 0x00, 0x00, 0x04, 0x00] = .ok (.vendorGetFunc ⟨true, 1, 0, 0, 4⟩) := by rfl  -- V-SU-13
theorem test_decode_vendorSetDelay :
    decode .request [0x41, 0x02, 0x0A, 0x00, 0x00, 0x00, 0x00, 0x00] = .ok (.vendorSetDelay ⟨false, 1, 10, 0, 0⟩) := by rfl  -- V-SU-14
theorem test_decode_vendorGetStatus :
    decode .request [0xC1, 0x03, 0x00, 0x00, 0x00, 0x00, 0x01, 0x00] = .ok (.vendorGetStatus ⟨true, 1, 0, 0, 1⟩) := by rfl  -- V-SU-8
theorem test_decode_vendorI2cIo_begin :
    decode .request [0xC1, 0x05, 0x01, 0x00, 0x50, 0x00, 0x03, 0x00] = .ok (.vendorI2cIo true false ⟨true, 1, 1, 0x50, 3⟩) := by
  rfl  -- V-SU-16
theorem test_decode_vendorI2cIo_end :
    decode .request [0x41, 0x06, 0x00, 0x00, 0x50, 0x00, 0x01, 0x00] = .ok (.vendorI2cIo false true ⟨false, 1, 0, 0x50, 1⟩) := by
  rfl  -- V-SU-17
theorem test_decode_vendorUnknown :
    decode .request [0xC1, 0x09, 0x00, 0x00, 0x00, 0x00, 0x04, 0x00] = .ok (.vendorUnknown 9 ⟨true, 1, 0, 0, 4⟩) := by rfl  -- V-SU-15
theorem test_decode_classEcho :
    decode .request [0xA1, 0x00, 0x34, 0x12, 0x00, 0x00, 0x02, 0x00] = .ok (.classEcho ⟨true, 1, 0x1234, 0, 2⟩) := by rfl
theorem test_decode_classGetFunc :
    decode .request [0xA1, 0x01, 0x00, 0x00, 0x00, 0x00, 0x04, 0x00] = .ok (.classGetFunc ⟨true, 1, 0, 0, 4⟩) := by rfl
theorem test_decode_classSetDelay :
    decode .request [0x21, 0x02, 0x0A, 0x00, 0x00, 0x00, 0x00, 0x00] = .ok (.classSetDelay ⟨false, 1, 10, 0, 0⟩) := by rfl
theorem test_decode_classGetStatus :
    decode .request [0xA1, 0x03, 0x00, 0x00, 0x00, 0x00, 0x01, 0x00] = .ok (.classGetStatus ⟨true, 1, 0, 0, 1⟩) := by rfl
theorem test_decode_classI2cIo :
    decode .request [0x21, 0x07, 0x00, 0x00, 0x50, 0x00, 0x00, 0x00] = .ok (.classI2cIo true true ⟨false, 1, 0, 0x50, 0⟩) := by rfl
theorem test_decode_classUnknown :
    decode .request [0x21, 0x08, 0x00, 0x00, 0x00, 0x00, 0x00, 0x00] = .ok (.classUnknown 8 ⟨false, 1, 0, 0, 0⟩) := by rfl
theorem test_decode_reservedType :
    decode .request [0x60, 0x04, 0x00, 0x00, 0x00, 0x00, 0x00, 0x00] = .ok (.reservedType 4 ⟨false, 0, 0, 0, 0⟩) := by rfl  -- V-SU-19

/-! ### Commands, from R118 and R119: the low byte of the word first -/

theorem test_decode_i2cReserved0 : decode .i2c [0x00, 0x00] = .ok (.i2cReserved0 0) := by rfl
theorem test_decode_i2cStart : decode .i2c [0x00, 0x01] = .ok (.i2cStart 0) := by rfl
theorem test_decode_i2cRstart : decode .i2c [0x00, 0x02] = .ok (.i2cRstart 0) := by rfl
theorem test_decode_i2cStop : decode .i2c [0x00, 0x03] = .ok (.i2cStop 0) := by rfl
theorem test_decode_i2cWrite : decode .i2c [0xA0, 0x04] = .ok (.i2cWrite 0xA0) := by rfl
theorem test_decode_i2cReadAck : decode .i2c [0x00, 0x05] = .ok (.i2cReadAck 0) := by rfl
theorem test_decode_i2cReadNak : decode .i2c [0x00, 0x06] = .ok (.i2cReadNak 0) := by rfl
theorem test_decode_i2cReserved7 : decode .i2c [0x00, 0x07] = .ok (.i2cReserved7 0) := by rfl
theorem test_decode_calReserved0 : decode .cal [0x00] = .ok .calReserved0 := by rfl
theorem test_decode_calRun : decode .cal [0x01] = .ok .calRun := by rfl
theorem test_decode_calLoad : decode .cal [0x02] = .ok .calLoad := by rfl
theorem test_decode_calReserved3 : decode .cal [0x03] = .ok .calReserved3 := by rfl
theorem test_decode_i2c_wide : decode .i2c [0x00, 0x08] = .error .portWidth := by rfl

/-! ### Check values of R105, R106 and the vectors V-TOK and V-CRC -/

theorem test_crc5_setup_5 : crc5 0x005 = 0x1A := by decide +kernel  -- V-TOK-4
theorem test_crc5_endpoint_1 : crc5 0x105 = 0x1F := by decide +kernel  -- V-TF-3
theorem test_crc16_check : crc16 [0x31, 0x32, 0x33, 0x34, 0x35, 0x36, 0x37, 0x38, 0x39] = 0xB4C8 := by decide +kernel  -- R106
theorem test_crc16_setup : crc16 [0x80, 0x06, 0x00, 0x01, 0x00, 0x00, 0x40, 0x00] = 0x94DD := by decide +kernel  -- V-SU-1
theorem test_wire_stuffing : stuffBits 1 [true, true, true, true, true, true, true] =
    [true, true, true, true, true, false, true, true] := by decide +kernel  -- R101: the SYNC's last bit is the first 1

/-! ### Single steps -/

/-- A state after boot with a stored trim and known delays. -/
def booted : State :=
  { State.powerOn 77 (Vector.replicate 3 0x30) with
    cal.oscTrim := 77, cal.done := true, irq.enable := true, poll.phase := .s1
    bridge.fullDelay := 10, bridge.halfDelay := 5 }

/-- The next state, where there is one. -/
def nextOf : Host.Outcome State Fault Refusal → Option State
  | .next t => some t
  | _ => none

/-- A data packet of a device descriptor request (V-SU-1). -/
def getDescriptorPacket : RxPacket := .bytes [0xC3, 0x80, 0x06, 0x00, 0x01, 0x00, 0x00, 0x40, 0x00, 0xDD, 0x94]

/-- `booted` with the ISR running and packets to receive. -/
def serving (ps : List RxPacket) : State := { booted with irq.active := true, irq.enable := false, irq.rx := ps }

theorem test_setup_acked :  -- V-RX-1
    (nextOf (exec (.setupToken 0 0 0x02) (serving [getDescriptorPacket]))).map
      (fun t => (t.usb.rxLen, t.usb.rxSel, t.usb.rxToken, t.env.sent)) = some (11, true, 0x2D, [[0xD2]]) := by decide +kernel
theorem test_out_bad_crc_silent :  -- V-RX-4
    (nextOf (exec (.outToken 0 0 0x02) (serving [.bytes [0xC3, 0x00, 0x00, 0x00]]))).map
      (fun t => (t.usb.rxLen, t.usb.rxSel, t.env.sent)) = some (0, false, []) := by decide +kernel
theorem test_out_busy_naked :  -- V-RX-8
    (nextOf (exec (.outToken 0 0 0x02) { serving [.bytes [0xC3, 0x00, 0x40, 0xBF]] with usb.rxLen := 4 })).map
      (fun t => (t.usb.rxLen, t.usb.rxSel, t.env.sent)) = some (4, false, [[0x5A]]) := by decide +kernel
theorem test_in_acked :  -- V-RX-16
    (nextOf (exec (.inToken 0 0 0x02)
        { serving [.bytes [0xD2]] with usb.txLen := 3, usb.txBuf := (emptyBuf.set 0 0x4B) })).map
      (fun t => (t.usb.txLen, t.env.sent)) = some (0, [[0x4B, 0x00, 0x00]]) := by decide +kernel
theorem test_in_not_acked :  -- V-RX-18
    (nextOf (exec (.inToken 0 0 0x02) { serving [.bytes [0x5A]] with usb.txLen := 11 })).map
      (fun t => t.usb.txLen) = some 11 := by decide +kernel
theorem test_set_address_pending :  -- the example of R206
    (nextOf (exec (.stdSetAddress ⟨false, 0, 5, 0, 0⟩) booted)).map
      (fun t => (t.usb.newAddress, t.usb.addrPending, t.usb.address, t.usb.txState, t.usb.txTotal)) =
    some (5, true, 0, .ram, 0) := by decide +kernel
theorem test_echo_clamped :  -- V-CLAMP-3
    (nextOf (exec (.vendorEcho ⟨true, 1, 0x1234, 0, 1⟩) booted)).map (fun t => (t.usb.txState, t.usb.txTotal)) =
    some (.ram, 1) := by decide +kernel
theorem test_clamp_high_byte : clampedLength 4 0x1234 = 4 ∧ hostCap 0x0100 = 255 := by decide +kernel  -- V-CLAMP-7, V-CLAMP-5
theorem test_probe_acked :  -- the example of R243: both lines released, status 1
    (nextOf (exec (.vendorI2cIo true true ⟨false, 1, 0, 0x50, 0⟩) { booted with env.sdaLow := true })).map
      (fun t => (t.bridge.status, t.bridge.remaining, t.pins.sdaDir, t.pins.sclDir)) =
    some (.addressAcked, 0, .input, .input) := by decide +kernel
theorem test_probe_nacked :  -- the example of R242
    (nextOf (exec (.vendorI2cIo true true ⟨false, 1, 0, 0x51, 0⟩) booted)).map
      (fun t => (t.bridge.status, t.bridge.remaining, t.pins.sdaDir, t.pins.sclDir)) =
    some (.addressNacked, 0, .input, .input) := by decide +kernel
theorem test_start_events :  -- the example of R280: SDA falls, then SCL
    (nextOf (exec (.i2cStart 0) booted)).map (fun t => t.pins.log) =
    some [.delay 5, .drive false false, .delay 5, .drive false true] := by decide +kernel
theorem test_rstart_events :  -- the example of R281: SCL rises, SDA falls, SCL falls
    (nextOf (exec (.i2cRstart 0) { booted with pins.sclDir := .output })).map (fun t => t.pins.log) =
    some [.delay 5, .drive false false, .delay 5, .drive false true, .delay 5, .delay 5, .drive true true, .delay 5] := by
  decide +kernel
theorem test_stop_events :  -- the example of R282: SDA falls, SCL rises, SDA rises
    (nextOf (exec (.i2cStop 0) { booted with pins.sclDir := .output })).map (fun t => t.pins.log) =
    some [.delay 5, .drive true true, .delay 5, .delay 5, .drive false true, .delay 5, .drive false false] := by decide +kernel
theorem test_write_a0 :  -- the example of R283
    (nextOf (exec (.i2cWrite 0xA0) { booted with pins.sclDir := .output, env.sdaLow := true })).map
      (fun t => (t.pins.ack, clockedBits false t.pins.log.reverse)) =
    some (true, [true, false, true, false, false, false, false, false, true]) := by decide +kernel
theorem test_read_idle_bus :  -- the corner case of R284
    (nextOf (exec (.i2cReadNak 0) { booted with pins.sclDir := .output })).map (fun t => t.pins.byte) = some 0xFF := by decide +kernel
theorem test_cal_load :  -- the example of R306
    (nextOf (exec .calLoad { booted with cal.oscTrim := 3, cal.done := false })).map (fun t => (t.cal.oscTrim, t.cal.done)) =
    some (77, true) := by decide +kernel
theorem test_cal_run_waits :  -- R300: no frame marker, so the calibration stands before its first measurement
    (nextOf (exec .calRun booted)).map (fun t => (t.cal.oscTrim, t.poll.cont.head?)) = some (128, some .measureOpen) := by
  decide +kernel
theorem test_no_marker_in_reset :  -- R300: a bus reset still held sends no frame marker
    (hostMove (.keepAlive 0) { booted with env.dmLow := true }).env.marker = none := by decide +kernel
theorem test_ack_on_the_wire :  -- R101, R142: SYNC and D2 (bits 0100 1011), EOP; the lines are released
    (sendPacket [0xD2] booted).wire.log.reverse =
      [.k, .j, .k, .j, .k, .j, .k, .k, .j, .j, .k, .j, .j, .k, .k, .k, .se0, .se0, .j] ∧
    (sendPacket [0xD2] booted).wire.dpDir = .input ∧ (sendPacket [0xD2] booted).wire.dmDir = .input := by decide +kernel
theorem test_read_dp :  -- R72: the host's level, and the block's own while it drives the line
    readLine (hostMove (.driveDp true) booted) .dp = true ∧
    readLine (setDirection .dp .output (hostMove (.driveDp true) booted)) .dp = false := by decide +kernel
theorem test_bus_reset :  -- the example of R170
    (nextOf (steps 22 { booted with poll := ⟨.s3, []⟩, env.dmLow := true, usb.address := 5, usb.txLen := 11 })).map
      (fun t => (t.usb.address, t.usb.txLen, t.poll.phase, t.irq.enable)) = some (0, 0, .s1, true) := by decide +kernel
/-- POLL about to read the last byte of a SETUP payload from the active buffer. -/
def lastSetupByte (pending : Bool) : State :=
  { booted with
    irq.pending := pending, usb.rxBuf0 := captured emptyBuf [0xC3, 0x00, 0x05, 0x05, 0x00, 0x00, 0x00, 0x00, 0x00]
    poll.cont := [.readSetup false [0x00, 0x05, 0x05, 0x00, 0x00, 0x00, 0x00]] }

theorem test_back_to_back :  -- R322: a keep-alive while the ISR serves a packet; the next activation comes before POLL's step
    (nextOf (step { serving [.bytes [0xD2]] with env.host := [.keepAlive 0] })).map
      (fun t => (t.irq.active, t.irq.pending)) = some (true, true) ∧
    (nextOf (steps 3 { serving [.bytes [0xD2]] with env.host := [.keepAlive 0] })).map
      (fun t => (t.irq.active, t.irq.pending, t.poll.cont)) = some (true, false, []) := by decide +kernel
theorem test_setup_read_then_dispatched :  -- R81: each byte of the payload is a step, and so is what follows
    (nextOf (step (lastSetupByte false))).map (fun t => t.poll.cont) =
      some [.dispatch [0x00, 0x05, 0x05, 0x00, 0x00, 0x00, 0x00, 0x00]] ∧
    (nextOf (step (lastSetupByte true))).map (fun t => (t.irq.active, t.poll.cont)) =
      some (true, (lastSetupByte true).poll.cont) := by decide +kernel
theorem test_set_delay_cursor :  -- R231: a literal reply of length 0 of a command
    (nextOf (exec (.vendorSetDelay ⟨false, 1, 10, 0, 0⟩) booted)).map (fun t => t.usb.txCursor) = some (replyAddr 0) := by rfl
theorem test_refused_never : nextOf (step State.reset) ≠ none := by decide +kernel

/-! ### Witnesses: a state and operands that meet the hypotheses of each statement -/

/-- `booted` between two steps of the poll loop. -/
def atPhase (p : PollPhase) : State := { booted with poll := ⟨p, []⟩ }

theorem witness_DecodeOfEncode : (Instr.data1 (List.replicate 8 0xFF) 0x70FE).wellFormed = true := by decide
theorem witness_EncodeOfDecode : decode .usb [0xC3, 0x00, 0x40, 0xBF] = .ok (.data0 [0x00] 0xBF40) := by rfl
theorem witness_StepRunsDecoded_usb :
    (serving [.bytes [0xD2]]).irq.active = true ∧ (serving [.bytes [0xD2]]).irq.rx = [.bytes [0xD2]] ∧
    (RxPacket.bytes [0xD2]).received = some [0xD2] ∧ decode .usb [0xD2] = .ok .ack := by
  exact ⟨rfl, rfl, rfl, rfl⟩
theorem witness_StepRunsDecoded_request :
    (placeInstruction .request [0x80, 8, 0, 0, 0, 0, 1, 0] booted).irq.active = false ∧
    interruptDue (placeInstruction .request [0x80, 8, 0, 0, 0, 0, 1, 0] booted) = false ∧
    pollSteps (placeInstruction .request [0x80, 8, 0, 0, 0, 0, 1, 0] booted) =
      .dispatch [0x80, 8, 0, 0, 0, 0, 1, 0] :: [.intMask, .s1Len] ∧
    decode .request [0x80, 8, 0, 0, 0, 0, 1, 0] = .ok (.stdGetConfiguration ⟨true, 0, 0, 0, 1⟩) := ⟨rfl, rfl, rfl, rfl⟩
theorem witness_StepRunsDecoded_commands :
    booted.irq.active = false ∧ interruptDue booted = false ∧
    pollSteps { booted with poll.cont := [.i2cCmd 0x100] } = .i2cCmd 0x100 :: [] ∧
    decode .i2c (i2cWordBytes 0x100) = .ok (.i2cStart 0) ∧
    pollSteps { booted with poll.cont := [.calCmd 2] } = .calCmd 2 :: [] ∧ decode .cal (calWordBytes 2) = .ok .calLoad :=
  ⟨rfl, rfl, rfl, rfl, rfl, rfl⟩
theorem witness_BadFirstPacketDropped :  -- the last two: an unlisted PID (0xF0), and DATA0 of two bytes
    (serving [.bytes []]).irq.active = true ∧ (RxPacket.wire [.se0]).received = none ∧
    (RxPacket.bytes []).received = some [] ∧
    (RxPacket.bytes [0x2C]).received = some (0x2C :: []) ∧ (0x2C : Byte).extractLsb' 4 4 ≠ ~~~((0x2C : Byte).extractLsb' 0 4) ∧
    (RxPacket.bytes [0x69, 0x05]).received = some (0x69 :: [0x05]) ∧ [(0x05 : Byte)].length ≠ 2 ∧
    (RxPacket.bytes [0xF0]).received = some (0xF0 :: []) ∧ (0xF0 : Byte) ≠ 0x2D ∧ (0xF0 : Byte) ≠ 0xE1 ∧ (0xF0 : Byte) ≠ 0x69 ∧
    (RxPacket.bytes [0xC3, 0x00]).received = some (0xC3 :: [0x00]) ∧ (0xC3 : Byte) ≠ 0x2D := by
  refine ⟨rfl, rfl, rfl, rfl, by decide, rfl, by decide, rfl, by decide, by decide, by decide, rfl, by decide⟩
theorem witness_CrcCatchesBitFlip : 1 < [(0x34 : Byte), 0x12].length ∧ 7 < 8 := by decide
theorem witness_WireRoundTrip : (List.replicate 11 (0xFF : Byte)).length ≤ 11 := by decide
theorem witness_WireRoundTrip_zero : receiveWire (transmitWire [0xFF, 0xFF]) = some [0xFF, 0xFF] := by decide

theorem booted_inv : Inv booted :=
  ⟨rfl, rfl, fun h => absurd rfl h, rfl, by decide, by decide, ⟨rfl, rfl⟩, ⟨rfl, rfl⟩, fun h => (by cases h), rfl⟩
theorem witness_StepKeepsInv : Inv booted ∧ ∃ t, step booted = .next t := ⟨booted_inv, _, rfl⟩
theorem witness_InterruptEntry :
    let s : State := { booted with irq.pending := true }
    s.irq.pending = true ∧ s.irq.enable = true ∧ s.irq.active = false ∧ s.env.offer = [] := by
  exact ⟨rfl, rfl, rfl, rfl⟩
theorem witness_InterruptReturn :  -- an edge in the return's own step, and one latched before it
    let s : State := { serving [] with env.host := [.transaction [getDescriptorPacket]] }
    let u : State := { serving [] with irq.pending := true }
    s.irq.active = true ∧ s.irq.rx = [] ∧ (tick (interruptReturn s)).irq.pending = true ∧
      u.irq.active = true ∧ u.irq.rx = [] ∧ u.irq.pending = true := ⟨rfl, rfl, rfl, rfl, rfl, rfl⟩
theorem witness_IsrFrame : (serving [getDescriptorPacket]).irq.active = true ∧ ∃ t, step (serving [getDescriptorPacket]) = .next t :=
  ⟨rfl, _, rfl⟩
theorem witness_IsrFrame_busy :
    let s : State := { serving [.bytes [0xE1, 0x00, 0x10], getDescriptorPacket] with usb.rxLen := 4 }
    s.usb.rxLen ≠ 0 ∧ ∃ t, step s = .next t := ⟨by decide, _, rfl⟩
theorem witness_PollFrame :
    Inv booted ∧ booted.irq.active = false ∧ interruptDue booted = false ∧ ∃ t, step booted = .next t :=
  ⟨booted_inv, rfl, rfl, _, rfl⟩

theorem witness_DataPacketAccepted :  -- an OUT with the longest payload, and an empty SETUP whose toggle repeats
    let d := dataBytes 0x4B (List.replicate 8 0xFF) (crc16 (List.replicate 8 0xFF))
    let e := dataBytes 0x4B [] (crc16 [])
    let s := serving [.bytes d]
    let t : State := { serving [.bytes e] with usb.rxLastToggle := some true }
    (List.replicate 8 (0xFF : Byte)).length ≤ 8 ∧ s.irq.rx = [.bytes d] ∧ s.usb.rxLen = 0 ∧
      s.usb.rxLastToggle ≠ some ((0x4B : Byte) == 0x4B) ∧
      t.irq.rx = [.bytes e] ∧ t.usb.rxLen = 0 ∧ t.usb.rxLastToggle = some ((0x4B : Byte) == 0x4B) :=
  ⟨by decide, rfl, rfl, by decide, rfl, rfl, rfl⟩
theorem witness_BadDataPacketDropped :
    (∃ p rest, (serving [.wire []]).irq.rx = p :: rest ∧ p.received = none) ∧ (serving []).irq.rx = [] ∧
    [(0xC3 : Byte), 0x00].length < 3 ∧ 11 < (List.replicate 12 (0x4B : Byte)).length ∧
    (∃ b tl, ([0xD2, 0x00, 0x00] : List Byte) = b :: tl ∧ b ≠ 0xC3 ∧ b ≠ 0x4B) ∧
    (∃ pid payload c, ([0xC3, 0x00, 0x00, 0x00] : List Byte) = dataBytes pid payload c ∧ c ≠ crc16 payload) :=
  ⟨⟨_, _, rfl, rfl⟩, rfl, by decide, by decide, ⟨0xD2, [0, 0], rfl, by decide, by decide⟩,
    ⟨0xC3, [0x00], 0x0000, rfl, by decide⟩⟩
theorem witness_DataWhileBusyNaked :
    let s : State := { serving [.bytes (dataBytes 0xC3 [] (crc16 []))] with usb.rxLen := 3 }
    s.irq.rx = [.bytes (dataBytes 0xC3 [] (crc16 []))] ∧ s.usb.rxLen ≠ 0 := ⟨rfl, by decide⟩
theorem witness_RepeatedToggle :
    let s : State := { serving [.bytes (dataBytes 0x4B [0x11] (crc16 [0x11]))] with usb.rxLastToggle := some true }
    s.irq.rx = [.bytes (dataBytes 0x4B [0x11] (crc16 [0x11]))] ∧ s.usb.rxLen = 0 ∧
      s.usb.rxLastToggle = some ((0x4B : Byte) == 0x4B) := by
  exact ⟨rfl, rfl, rfl⟩
theorem witness_TokenFilter :  -- V-TF-3, V-TF-2, V-TOK-7
    (0x1A : BitVec 5) ≠ crc5 ((2 : BitVec 4) ++ (5 : BitVec 7)) ∧ (5 : BitVec 7) ≠ booted.usb.address ∧ (1 : BitVec 4) ≠ 0 := by
  decide +kernel

theorem booted_quiet : Quiet booted ∧ booted.ram.wf = true := ⟨⟨rfl, rfl, rfl⟩, rfl⟩
theorem booted_sclFree : SclFree booted ∧ NeverHigh booted := ⟨⟨⟨rfl, rfl, rfl⟩, rfl⟩, rfl, rfl⟩
theorem witness_I2cIoCompletes_rstart :
    let s : State := { booted with pins.sclDir := .output }
    SclFree s ∧ NeverHigh s ∧ s.pins.sclDir = .output := ⟨⟨⟨rfl, rfl, rfl⟩, rfl⟩, ⟨rfl, rfl⟩, rfl⟩
theorem witness_I2cIoCompletes_idle : booted.pins.sdaDir = .input ∧ booted.pins.sclDir = .input := ⟨rfl, rfl⟩
theorem witness_DelayFloor :
    1 ≤ booted.bridge.fullDelay.toNat ∧ 1 ≤ booted.bridge.halfDelay.toNat ∧
      ∃ t, exec (.vendorSetDelay ⟨false, 1, 0, 0, 0⟩) booted = .next t := ⟨by decide, by decide, _, rfl⟩
theorem witness_StandardRequestsLeaveBridge : ∃ t, exec (.stdGetStatus ⟨true, 0, 0, 0, 2⟩) booted = .next t := ⟨_, rfl⟩
theorem witness_I2cRstart : booted.pins.sclDir = .input ∧
    ({ booted with pins.sclDir := .output } : State).pins.sclOut = false := ⟨rfl, rfl⟩
theorem witness_I2cRead :
    let s : State := { booted with env.bus := slaveScript 0x5A, pins.sclDir := .output }
    s.env.host = [] ∧ interruptDue s = false ∧ NeverHigh s ∧ s.env.bus = slaveScript 0x5A ∧ s.pins.sclDir = .output :=
  ⟨rfl, rfl, ⟨rfl, rfl⟩, rfl, rfl⟩
theorem witness_ClockStretchHolds :
    let s : State := { booted with poll.cont := [.waitScl], env.sclLow := true }
    s.irq.active = false ∧ interruptDue s = false ∧ s.poll.cont = .waitScl :: [] ∧ s.env.sclLow = true :=
  ⟨rfl, rfl, rfl, rfl⟩
theorem witness_MeasurementWaits :
    (let s : State := { booted with poll.cont := [.measureOpen] }
     s.irq.active = false ∧ interruptDue s = false ∧ s.poll.cont = .measureOpen :: [] ∧ s.env.marker = none) ∧
    (let s : State := { booted with poll.cont := [.measureEnd] }
     s.irq.active = false ∧ interruptDue s = false ∧ s.poll.cont = .measureEnd :: [] ∧ s.env.marker = none) ∧
    ({ booted with env.dmLow := true } : State).env.dmLow = true :=
  ⟨⟨rfl, rfl, rfl, rfl⟩, ⟨rfl, rfl, rfl, rfl⟩, rfl⟩
/-- The counts of the example of R303. -/
def exampleCounts (t : Byte) : Half := BitVec.ofNat 16 (4 * t.toNat + 100)

theorem witness_CalibrationConverges :
    let s : State := { booted with irq.enable := false, env.host := calibrationScript exampleCounts ++ [.resetEnd] }
    s.irq.enable = false ∧ s.env.bus = [] ∧ s.env.host = calibrationScript exampleCounts ++ [.resetEnd] ∧
      ∀ a b : Byte, a.toNat ≤ b.toNat → (exampleCounts a).toNat ≤ (exampleCounts b).toNat := by
  refine ⟨rfl, rfl, rfl, fun a b h => ?_⟩
  have ha := a.isLt
  have hb := b.isLt
  simp only [exampleCounts, BitVec.toNat_ofNat]
  omega

theorem witness_atPhase_s1 : AtPhase .s1 (atPhase .s1) := ⟨rfl, rfl, rfl, rfl, rfl, rfl⟩
theorem witness_atPhase_s2 : AtPhase .s2 (atPhase .s2) := ⟨rfl, rfl, rfl, rfl, rfl, rfl⟩
theorem witness_atPhase_s3 : AtPhase .s3 (atPhase .s3) := ⟨rfl, rfl, rfl, rfl, rfl, rfl⟩
theorem witness_S1EmptyOrAbort :
    (atPhase .s1).usb.rxLen = 0 ∧
    (let s : State := { atPhase .s1 with usb.rxLen := 10, usb.rxToken := 0x2D }
     AtPhase .s1 s ∧ s.usb.rxToken = 0x2D ∧ 3 ≤ s.usb.rxLen.toNat ∧ s.usb.rxLen ≠ 11) ∧
    (let s : State := { atPhase .s1 with usb.rxLen := 3, usb.rxToken := 0xE1 }
     AtPhase .s1 s ∧ s.usb.rxToken = 0xE1 ∧ s.usb.rxLen = 3) :=
  ⟨rfl, ⟨⟨rfl, rfl, rfl, rfl, rfl, rfl⟩, rfl, by decide, by decide⟩, ⟨⟨rfl, rfl, rfl, rfl, rfl, rfl⟩, rfl, rfl⟩⟩
theorem witness_S1ReachesDispatch :
    let s : State := { atPhase .s1 with usb.rxLen := 11, usb.rxToken := 0x2D }
    AtPhase .s1 s ∧ s.usb.rxLen = 11 ∧ s.usb.rxToken = 0x2D := ⟨⟨rfl, rfl, rfl, rfl, rfl, rfl⟩, rfl, rfl⟩
theorem witness_OutPayloadWritten :  -- the longest payload, with a transaction of that length
    let s : State := { atPhase .s1 with
      usb.rxLen := 11, usb.rxToken := 0xE1, pins.sclDir := .output
      bridge.status := .addressAcked, bridge.remaining := 8, bridge.endFlag := true }
    AtPhase .s1 s ∧ s.usb.rxToken = 0xE1 ∧ s.usb.rxLen = BitVec.ofNat 8 (8 + 3) ∧ min 8 s.bridge.remaining.toNat = 8 ∧
      s.env.sclLow = false ∧ NeverHigh s ∧ s.pins.sclDir = .output :=
  ⟨⟨rfl, rfl, rfl, rfl, rfl, rfl⟩, rfl, rfl, rfl, rfl, ⟨rfl, rfl⟩, rfl⟩
theorem witness_OutPayloadWritten_dropped :  -- V-WR-5, V-WR-6: one byte on the released bus, not acked or nothing left
    (let s : State := { atPhase .s1 with usb.rxLen := 4, usb.rxToken := 0xE1, bridge.status := .addressNacked }
     AtPhase .s1 s ∧ s.usb.rxLen = BitVec.ofNat 8 (1 + 3) ∧ s.bridge.status ≠ .addressAcked ∧ s.pins.sclDir = .input) ∧
    (let s : State := { atPhase .s1 with usb.rxLen := 4, usb.rxToken := 0xE1, bridge.status := .addressAcked }
     AtPhase .s1 s ∧ min 1 s.bridge.remaining.toNat = 0 ∧ s.pins.sclDir = .input) :=
  ⟨⟨⟨rfl, rfl, rfl, rfl, rfl, rfl⟩, rfl, by decide, rfl⟩, ⟨⟨rfl, rfl, rfl, rfl, rfl, rfl⟩, rfl, rfl⟩⟩
theorem witness_RefillFromMemory :
    let s : State := { atPhase .s2 with usb.txState := .rom, usb.txTotal := 18 }
    AtPhase .s2 s ∧ s.usb.txLen = 0 ∧ s.usb.txState = .rom := ⟨⟨rfl, rfl, rfl, rfl, rfl, rfl⟩, rfl, rfl⟩
theorem witness_ReadCallbackNaksLast :  -- one byte, the transaction's last
    let s : State := { atPhase .s2 with
      pins.sclDir := .output, usb.txState := .callback, usb.txTotal := 1, bridge.status := .addressAcked
      bridge.remaining := 1, bridge.endFlag := true
      env.bus := List.replicate 5 ⟨false, false⟩ ++ readCallbackScript 1 [0x5A] }
    AtPhaseWith .s2 [] (List.replicate 5 ⟨false, false⟩ ++ readCallbackScript s.bridge.remaining.toNat [0x5A]) s ∧
      s.usb.txLen = 0 ∧ s.usb.txState = .callback ∧ s.bridge.status = .addressAcked ∧
      min (min 8 s.usb.txTotal.toNat) s.bridge.remaining.toNat = 1 ∧ NeverHigh s ∧ s.pins.sclDir = .output :=
  ⟨⟨rfl, rfl, rfl, rfl, rfl, rfl⟩, rfl, rfl, rfl, rfl, ⟨rfl, rfl⟩, rfl⟩
theorem witness_ReadCallback_empty :  -- V-RD-3: nothing left, on the released bus; and no acknowledged address
    (let s : State := { atPhase .s2 with
       usb.txState := .callback, bridge.status := .addressAcked, env.bus := List.replicate 5 ⟨false, false⟩ }
     AtPhaseWith .s2 [] (List.replicate 5 ⟨false, false⟩ ++ readCallbackScript s.bridge.remaining.toNat []) s ∧
       s.bridge.status = .addressAcked ∧ min (min 8 s.usb.txTotal.toNat) s.bridge.remaining.toNat = 0 ∧
       s.pins.sclDir = .input) ∧
    (let s : State := { atPhase .s2 with usb.txState := .callback, usb.txTotal := 255, bridge.status := .addressNacked }
     AtPhase .s2 s ∧ s.usb.txLen = 0 ∧ s.bridge.status ≠ .addressAcked) :=
  ⟨⟨⟨rfl, rfl, rfl, rfl, rfl, rfl⟩, rfl, rfl, rfl⟩, ⟨rfl, rfl, rfl, rfl, rfl, rfl⟩, rfl, by decide⟩
theorem witness_AddressCommit :  -- a commit, and each reason for none
    (let s : State := { atPhase .s2 with usb.addrPending := true, usb.newAddress := 5 }
     AtPhase .s2 s ∧ s.usb.txState = .idle ∧ s.usb.txLen = 0 ∧ s.usb.addrPending = true) ∧
    (AtPhase .s2 (atPhase .s2) ∧ (atPhase .s2).usb.txState = .idle ∧ (atPhase .s2).usb.addrPending = false) ∧
    (let s : State := { atPhase .s2 with usb.txLen := 3, usb.addrPending := true }
     AtPhase .s2 s ∧ s.usb.txLen ≠ 0) :=
  ⟨⟨⟨rfl, rfl, rfl, rfl, rfl, rfl⟩, rfl, rfl, rfl⟩, ⟨⟨rfl, rfl, rfl, rfl, rfl, rfl⟩, rfl, rfl⟩,
    ⟨⟨rfl, rfl, rfl, rfl, rfl, rfl⟩, by decide⟩⟩
theorem witness_BusReset :
    AtPhase .s3 (atPhase .s3) ∧ (atPhase .s3).irq.enable = true ∧ UsbReleased (atPhase .s3) ∧
    (atPhase .s3).env.dmLow = false ∧
    (let s : State := { atPhase .s3 with env.dmLow := true }
     AtPhase .s3 s ∧ s.env.dmLow = true ∧ s.cal.done = true) ∧
    (let s : State := { atPhase .s3 with env.dmLow := true, cal.done := false }
     AtPhase .s3 s ∧ s.env.dmLow = true ∧ s.cal.done = false) :=
  ⟨⟨rfl, rfl, rfl, rfl, rfl, rfl⟩, rfl, ⟨rfl, rfl⟩, rfl, ⟨⟨rfl, rfl, rfl, rfl, rfl, rfl⟩, rfl, rfl⟩,
    ⟨⟨rfl, rfl, rfl, rfl, rfl, rfl⟩, rfl, rfl⟩⟩
theorem witness_BusReset_short :  -- V-BR-5: DM high after one low sample, and after nine
    (let s : State := { atPhase .s3 with env.dmLow := true, env.host := List.replicate (1 - 1) .idle ++ [.resetEnd] }
     AtPhaseWith .s3 (List.replicate (1 - 1) .idle ++ [.resetEnd]) [] s ∧ s.env.dmLow = true ∧ s.env.offer = []) ∧
    (let s : State := { atPhase .s3 with env.dmLow := true, env.host := List.replicate (9 - 1) .idle ++ [.resetEnd] }
     AtPhaseWith .s3 (List.replicate (9 - 1) .idle ++ [.resetEnd]) [] s ∧ s.env.dmLow = true ∧ s.env.offer = []) :=
  ⟨⟨⟨rfl, rfl, rfl, rfl, rfl, rfl⟩, rfl, rfl⟩, ⟨⟨rfl, rfl, rfl, rfl, rfl, rfl⟩, rfl, rfl⟩⟩
theorem witness_InterruptedRequestCompletes :  -- an OUT token's edge is latched when the request begins, a bus reset follows
    let s : State := { booted with
      irq.pending := true, env.offer := [.bytes [0xE1, 0x00, 0x10]], env.host := [.idle, .resetBegin, .resetEnd] }
    isRequest (.vendorEcho ⟨true, 1, 0x1234, 0, 2⟩) = true ∧ s.irq.active = false ∧ interruptDue s = true ∧
      s.env.bus = [] ∧ s.env.sclLow = false ∧
      ∃ r, exec (.vendorEcho ⟨true, 1, 0x1234, 0, 2⟩) (quietened s) = .next r :=
  ⟨rfl, rfl, rfl, rfl, rfl, _, rfl⟩
theorem witness_StepKeepsTxHandoff :
    let s : State := { booted with usb.txLen := 3, poll.cont := [.addressCommit, .goto .s3] }
    TxHandoff s ∧ ∃ t, step s = .next t := ⟨⟨fun _ => rfl, rfl⟩, _, rfl⟩
theorem witness_CounterNeverWraps :
    let s : State := { booted with bridge.remaining := 1, poll.cont := [.decRemaining] }
    CounterOk s ∧ (∃ t, step s = .next t) ∧ s.irq.active = false ∧ interruptDue s = false :=
  ⟨⟨by decide, rfl⟩, ⟨_, rfl⟩, rfl, rfl⟩
theorem witness_StepKeepsMasterUnmasked :
    let s : State := { booted with poll.cont := [.setLine .sda false] }
    MasterUnmasked s ∧ (∃ t, step s = .next t) ∧ s.irq.active = false ∧
      ∃ op rest, s.poll.cont = op :: rest ∧ op.touchesMaster = true :=
  ⟨⟨fun _ h => (by cases h), rfl⟩, ⟨_, rfl⟩, rfl, _, _, rfl, rfl⟩
theorem witness_OnlyUndefinedStartFaults :
    let s : State := { booted with poll.cont := [.rstartCheck] }
    Inv s ∧ step s = .fault .i2cRstartUndefined :=
  ⟨⟨rfl, rfl, fun h => absurd rfl h, rfl, by decide, by decide, ⟨rfl, rfl⟩, ⟨rfl, rfl⟩, fun h => (by cases h), rfl⟩, rfl⟩
theorem witness_EchoRoundTrip :
    let s : State := { atPhase .s1 with
      usb.rxLen := 11, usb.rxToken := 0x2D
      usb.rxBuf0 := captured emptyBuf [0xC3, 0xC1, 0x00, 0x34, 0x12, 0x00, 0x00, 0x02, 0x00, 0xCF, 0x7F] }
    AtPhase .s1 s ∧ s.ram.wf = true ∧ s.usb.rxLen = 11 ∧ s.usb.rxToken = 0x2D ∧
      setupPayload s s.usb.rxSel = [0xC1, 0x00, 0x34, 0x12, 0x00, 0x00, 0x02, 0x00] :=
  ⟨⟨rfl, rfl, rfl, rfl, rfl, rfl⟩, rfl, rfl, rfl, rfl⟩
theorem witness_PowerCycleKeepsNv : ({ booted with usb.address := 9 } : State).cal = booted.cal := rfl

end Sys2Proof.Tests
end

/-! What a step of POLL and a step of the ISR do, as one inversion lemma each; the invariants of POLL; and the invariant
of a run and POLL's frame (O11, O16). -/

namespace Sys2Proof.Machine

/-! ### The steps of POLL behind an instruction -/

/-- The atomic steps an instruction that POLL runs is made of; none for the ISR's packets and the reserved commands. -/
def instrOps : Instr → Option (List MicroOp)
  | .stdGetStatus r =>
    some [.putReply 0 selfPoweredByte, .putReply 1 0, .cursorToReply, .startTransfer 2 .ram r.wLength]
  | .stdSetAddress r => some (setAddressOps r)
  | .stdGetDescriptor r => some [.getDescriptor (descriptorType r) (descriptorIndex r) r.wIndex r.wLength []]
  | .stdGetConfiguration r =>
    some [.putReply 0 Config.configValue, .cursorToReply, .startTransfer 1 .ram r.wLength]
  | .stdGetInterface r => some [.putReply 0 0, .cursorToReply, .startTransfer 1 .ram r.wLength]
  | .stdClearFeature r | .stdSetFeature r | .stdSetDescriptor r | .stdSetConfiguration r | .stdSetInterface r
  | .stdSynchFrame r | .stdOther _ r | .reservedType _ r | .vendorUnknown _ r | .classUnknown _ r =>
    some (emptyReplyOps r.wLength)
  | .vendorEcho r | .classEcho r => some (echoOps r)
  | .vendorGetFunc r | .classGetFunc r => some (getFuncOps r)
  | .vendorSetDelay r | .classSetDelay r => some (setDelayOps r)
  | .vendorGetStatus r | .classGetStatus r => some (getStatusOps r)
  | .vendorI2cIo b e r | .classI2cIo b e r => some (i2cIoOps b e r)
  | .i2cStart _ => some startOps
  | .i2cRstart _ => some rstartOps
  | .i2cStop _ => some stopOps
  | .i2cWrite b => some (writeOps b)
  | .i2cReadAck _ => some (readOps false)
  | .i2cReadNak _ => some (readOps true)
  | .calRun => some calRunOps
  | .calLoad => some [.calLoad]
  | _ => none

/-- An instruction that is no packet runs its atomic steps; one without steps is a reserved command and faults. -/
theorem exec_eq_runInstr {i : Instr} (h : (encode i).1 ≠ .usb) (s : State) :
    exec i s = match instrOps i with
      | some ops => runInstr ops s
      | none => .fault .reservedCommand := by
  cases i
  case outToken | inToken | sof | setupToken | data0 | data1 | ack | nak | stall | pre => exact absurd rfl h
  all_goals rfl

/-- Where an instruction of POLL answers a next state, that is where its steps lead. -/
theorem exec_poll_next {i : Instr} {s t : State} (h : (encode i).1 ≠ .usb) (he : exec i s = .next t) :
    ∃ ops, instrOps i = some ops ∧ runInstr ops s = .next t := by
  rw [exec_eq_runInstr h] at he
  split at he
  · next ops hops => exact ⟨ops, hops, he⟩
  · cases he

/-! ### What the decoder gives at each port -/

/-- What both branches of the decoder give, it gives. -/
theorem decoded_ite {c : Prop} [Decidable c] {a b : Except DecodeError Instr} {i : Instr} {P : Prop}
    (ha : a = .ok i → P) (hb : b = .ok i → P) : (if c then a else b) = .ok i → P := by
  split
  · exact ha
  · exact hb

theorem decodeToken_port {mk : BitVec 7 → BitVec 4 → BitVec 5 → Instr} {bytes : List Byte} {i : Instr} {p : Port}
    (hmk : ∀ a e c, (encode (mk a e c)).1 = p) (h : decodeToken mk bytes = .ok i) : (encode i).1 = p := by
  unfold decodeToken at h
  split at h <;> cases h
  exact hmk _ _ _

theorem decodeSof_port {bytes : List Byte} {i : Instr} (h : decodeSof bytes = .ok i) : (encode i).1 = .usb := by
  unfold decodeSof at h
  split at h <;> cases h
  rfl

theorem decodeData_port {mk : List Byte → Half → Instr} {bytes : List Byte} {i : Instr} {p : Port}
    (hmk : ∀ d c, (encode (mk d c)).1 = p) (h : decodeData mk bytes = .ok i) : (encode i).1 = p := by
  unfold decodeData at h
  split at h
  · split at h <;> cases h
    exact hmk _ _
  · cases h

theorem decodeHandshake_port {j i : Instr} {bytes : List Byte} {p : Port} (hj : (encode j).1 = p)
    (h : decodeHandshake j bytes = .ok i) : (encode i).1 = p := by
  unfold decodeHandshake at h
  split at h <;> cases h
  exact hj

/-- A packet decodes to an instruction of the ISR. -/
theorem decodeUsb_port {bytes : List Byte} {i : Instr} (h : decodeUsb bytes = .ok i) : (encode i).1 = .usb := by
  cases bytes with
  | nil => cases h
  | cons pid rest =>
    revert h
    exact decoded_ite (decoded_ite (decodeToken_port fun _ _ _ => rfl) <|
      decoded_ite (decodeToken_port fun _ _ _ => rfl) <|
      decoded_ite decodeSof_port <|
      decoded_ite (decodeToken_port fun _ _ _ => rfl) <|
      decoded_ite (decodeData_port fun _ _ => rfl) <|
      decoded_ite (decodeData_port fun _ _ => rfl) <|
      decoded_ite (decodeHandshake_port rfl) <|
      decoded_ite (decodeHandshake_port rfl) <|
      decoded_ite (decodeHandshake_port rfl) <|
      decoded_ite (decodeHandshake_port rfl) nofun) nofun

theorem port_ite {c : Prop} [Decidable c] {a b : Instr} {p : Port} (ha : (encode a).1 = p) (hb : (encode b).1 = p) :
    (encode (if c then a else b)).1 = p := by
  split
  · exact ha
  · exact hb

theorem decodeStandard_port (req : Byte) (r : Setup) : (encode (decodeStandard req r)).1 = .request := by
  unfold decodeStandard
  repeat' apply port_ite
  all_goals rfl

theorem decodeVendor_port (req : Byte) (r : Setup) : (encode (decodeVendor req r)).1 = .request := by
  unfold decodeVendor
  repeat' apply port_ite
  all_goals rfl

theorem decodeClass_port (req : Byte) (r : Setup) : (encode (decodeClass req r)).1 = .request := by
  unfold decodeClass
  repeat' apply port_ite
  all_goals rfl

/-- A SETUP payload decodes to a request. -/
theorem decodeRequest_port {bytes : List Byte} {i : Instr} (h : decodeRequest bytes = .ok i) :
    (encode i).1 = .request := by
  unfold decodeRequest at h
  split at h
  · cases h
    exact port_ite (decodeStandard_port _ _) (port_ite (decodeClass_port _ _) (port_ite (decodeVendor_port _ _) rfl))
  · cases h

theorem decodeI2cOp_port (op : BitVec 3) (data : Byte) : (encode (decodeI2cOp op data)).1 = .i2c := by
  unfold decodeI2cOp
  repeat' apply port_ite
  all_goals rfl

/-- A sequencer command issued to its port decodes to the instruction whose steps the command has (R118). -/
theorem decodeI2c_command (w : BitVec 11) :
    ∃ i, decode .i2c (i2cWordBytes w) = .ok i ∧ (encode i).1 = .i2c ∧ instrOps i = i2cCmdOps w := by
  refine ⟨decodeI2cOp (w.extractLsb' 8 3) (w.extractLsb' 0 8), ?_, decodeI2cOp_port _ _, ?_⟩
  · have hhigh : ((w.extractLsb' 8 3).setWidth 8).extractLsb' 3 5 = 0 := by
      ext k hk; simp
    have hlow : ((w.extractLsb' 8 3).setWidth 8).extractLsb' 0 3 = w.extractLsb' 8 3 := by
      ext k hk; simp [hk, show k < 8 by omega]
    simp only [decode, decodeI2c, i2cWordBytes, hhigh, hlow]
    rfl
  · unfold i2cCmdOps decodeI2cOp
    split_ifs <;> rfl

/-- A calibrator command issued to its port decodes to the instruction whose steps the command has (R119). -/
theorem decodeCal_command (w : BitVec 2) :
    ∃ i, decode .cal (calWordBytes w) = .ok i ∧ (encode i).1 = .cal ∧ instrOps i = calCmdOps w := by
  have h : w = 0 ∨ w = 1 ∨ w = 2 ∨ w = 3 := by bv_omega
  rcases h with rfl | rfl | rfl | rfl
  · exact ⟨.calReserved0, rfl, rfl, rfl⟩
  · exact ⟨.calRun, rfl, rfl, rfl⟩
  · exact ⟨.calLoad, rfl, rfl, rfl⟩
  · exact ⟨.calReserved3, rfl, rfl, rfl⟩

/-! ### What a step does, for the ISR and for POLL -/

/-- POLL always has a step to take: its phase's program where it has no continuation. -/
theorem pollSteps_eq_cons (s : State) : ∃ op rest, pollSteps s = op :: rest := by
  unfold pollSteps
  split
  · cases s.poll.phase <;> exact ⟨_, _, rfl⟩
  · next h => exact List.exists_cons_of_ne_nil h

/-- Outside the ISR, with no interrupt due, the step is POLL's first one: the dispatch of a SETUP payload, a command
issued to a port, whose steps follow at once, or another atomic step. -/
theorem step_poll_cases {s t : State} (ha : s.irq.active = false) (hi : interruptDue s = false)
    (h : step s = .next t) :
    ∃ op rest, pollSteps s = op :: rest ∧
      ((∃ payload i ops, op = .dispatch payload ∧ decode .request payload = .ok i ∧ instrOps i = some ops ∧
          runInstr ops { s with poll.cont := rest } = .next t) ∨
        (∃ payload, op = .dispatch payload ∧ t = tick { s with poll.cont := rest }) ∨
        (∃ ops, microStep op { s with poll.cont := rest } = .go ops { s with poll.cont := rest } ∧
          runInstr ops { s with poll.cont := rest } = .next t) ∨
        pollMicro op rest { s with poll.cont := rest } = .next t) := by
  obtain ⟨op, rest, hs⟩ := pollSteps_eq_cons s
  refine ⟨op, rest, hs, ?_⟩
  have hn : nextAction s = pollAction s := by simp [nextAction, ha, hi]
  unfold step at h
  rw [hn, pollAction, hs] at h
  cases op
  case dispatch payload =>
    dsimp only at h
    cases hd : decode .request payload with
    | ok i =>
      rw [hd] at h
      have hp : (encode i).1 = .request := decodeRequest_port hd
      obtain ⟨ops, hops, hrun⟩ := exec_poll_next (by simp [hp]) h
      exact .inl ⟨payload, i, ops, rfl, hd, hops, hrun⟩
    | error e =>
      rw [hd] at h
      cases h
      exact .inr (.inl ⟨payload, rfl, rfl⟩)
  case i2cCmd w =>
    obtain ⟨i, hd, hp, hc⟩ := decodeI2c_command w
    simp only [hd] at h
    obtain ⟨ops, hops, hrun⟩ := exec_poll_next (by simp [hp]) h
    exact .inr (.inr (.inl ⟨ops, by simp [microStep, ← hc, hops, issue], hrun⟩))
  case calCmd w =>
    obtain ⟨i, hd, hp, hc⟩ := decodeCal_command w
    simp only [hd] at h
    obtain ⟨ops, hops, hrun⟩ := exec_poll_next (by simp [hp]) h
    exact .inr (.inr (.inl ⟨ops, by simp [microStep, ← hc, hops, issue], hrun⟩))
  all_goals exact .inr (.inr (.inr h))

/-- A property of states that holds of whatever POLL reaches from a state with it: it is kept where an atomic step gives
way to the steps it leads to, where a request's dispatch gives way to the request's steps (or to none), where POLL
enters the program of its phase, and where the environment moves. -/
structure PollInvariant (Q : State → Prop) : Prop where
  micro : ∀ {op : MicroOp} {rest more : List MicroOp} {s s' : State}, Q { s with poll.cont := op :: rest } →
    microStep op s = .go more s' → Q { s' with poll.cont := more ++ rest }
  dispatch : ∀ {payload : List Byte} {i : Instr} {ops rest : List MicroOp} {s : State},
    Q { s with poll.cont := .dispatch payload :: rest } → decode .request payload = .ok i →
      instrOps i = some ops → Q { s with poll.cont := ops ++ rest }
  drop : ∀ {payload : List Byte} {rest : List MicroOp} {s : State},
    Q { s with poll.cont := .dispatch payload :: rest } → Q { s with poll.cont := rest }
  phase : ∀ {s : State}, s.poll.cont = [] → Q s → Q { s with poll.cont := phaseOps s.poll.phase }
  env : ∀ {s : State}, Q s → Q (tick s)

theorem hostMove_withCont (e : HostEvent) (s : State) (ops : List MicroOp) :
    hostMove e { s with poll.cont := ops } = { hostMove e s with poll.cont := ops } := by
  cases e <;> simp only [hostMove] <;> split <;> rfl

theorem hostTick_withCont (s : State) (ops : List MicroOp) :
    hostTick { s with poll.cont := ops } = { hostTick s with poll.cont := ops } := by
  unfold hostTick
  cases s.env.host with
  | nil => rfl
  | cons e rest => exact hostMove_withCont e { s with env.host := rest } ops

theorem busTick_withCont (s : State) (ops : List MicroOp) :
    busTick { s with poll.cont := ops } = { busTick s with poll.cont := ops } := by
  unfold busTick
  cases s.env.bus <;> rfl

/-- The environment does not look at what POLL is about to do. -/
theorem tick_withCont (s : State) (ops : List MicroOp) :
    tick { s with poll.cont := ops } = { tick s with poll.cont := ops } := by
  unfold tick
  rw [hostTick_withCont, busTick_withCont]

/-- An invariant of POLL is kept along an operation's steps, the unfinished ones counted as its continuation. -/
theorem PollInvariant.runOps {Q : State → Prop} (hQ : PollInvariant Q) {n : Nat} {ops : List MicroOp} {s t : State}
    (hq : Q (suspend ops s)) (h : runOps n ops s = .next t) : Q t := by
  obtain ⟨ops', s', hq', rfl⟩ := runOps_invariant (fun ops s => Q (suspend ops s))
    (fun op rest s more s' hq _ hm => by
      have hcont : s'.poll.cont = s.poll.cont := (microStep_frame hm).1
      have h' := hQ.env (hQ.micro (rest := rest ++ s.poll.cont) hq hm)
      rw [← List.append_assoc, ← hcont, tick_withCont] at h'
      simpa [suspend] using h')
    (fun op rest s hq _ => by
      have h' := hQ.env hq
      rw [suspend, tick_withCont] at h'
      simpa [suspend] using h')
    n ops s t hq h
  exact hq'

/-- A step of POLL keeps every invariant of POLL. -/
theorem PollInvariant.step {Q : State → Prop} (hQ : PollInvariant Q) {s t : State} (ha : s.irq.active = false)
    (hi : interruptDue s = false) (hq : Q s) (h : step s = .next t) : Q t := by
  have hsteps : Q { s with poll.cont := pollSteps s } := by
    unfold pollSteps
    split
    · next hc => exact hQ.phase hc hq
    · exact hq
  obtain ⟨op, rest, hs, hcase⟩ := step_poll_cases ha hi h
  rw [hs] at hsteps
  rcases hcase with ⟨payload, i, ops, rfl, hd, hops, hrun⟩ | ⟨payload, rfl, rfl⟩ | ⟨ops, hm, hrun⟩ | hmicro
  · exact hQ.runOps (hQ.dispatch hsteps hd hops) hrun
  · exact hQ.env (hQ.drop hsteps)
  · exact hQ.runOps (hQ.micro (s := { s with poll.cont := rest }) hsteps hm) hrun
  · rcases pollMicro_cases hmicro with ⟨more, s', hm, rfl⟩ | ⟨-, rfl⟩
    · exact hQ.env (hQ.micro (s := { s with poll.cont := rest }) hsteps hm)
    · exact hQ.env hsteps

/-- What the ISR's body does with a packet: nothing, a SETUP or OUT transaction, or an IN (R143). -/
theorem exec_packet_next {i : Instr} {s t : State} (hp : (encode i).1 = .usb) (h : exec i s = .next t) :
    t = isrDone s ∨ (∃ token, (token = 0x2D ∨ token = 0xE1) ∧ t = isrSetupOut token s) ∨ t = isrIn s := by
  cases i
  case outToken a e c =>
    simp only [exec, execOutToken] at h
    split at h <;> cases h
    · exact .inr (.inl ⟨_, .inr rfl, rfl⟩)
    · exact .inl rfl
  case setupToken a e c =>
    simp only [exec, execSetupToken] at h
    split at h <;> cases h
    · exact .inr (.inl ⟨_, .inl rfl, rfl⟩)
    · exact .inl rfl
  case inToken a e c =>
    simp only [exec, execInToken] at h
    split at h <;> cases h
    · exact .inr (.inr rfl)
    · exact .inl rfl
  case sof | data0 | data1 | ack | nak | stall | pre => cases h; exact .inl rfl
  all_goals cases hp

/-- A step of the ISR: its return, an activation with nothing to do, or a transaction that its first packet starts. -/
theorem step_isr_cases {s t : State} (ha : s.irq.active = true) (h : step s = .next t) :
    t = tick (interruptReturn s) ∨ t = tick (isrDone s) ∨
      (∃ p rest, s.irq.rx = p :: rest ∧
        ((∃ token, (token = 0x2D ∨ token = 0xE1) ∧ t = tick (isrSetupOut token { s with irq.rx := rest })) ∨
          t = tick (isrIn { s with irq.rx := rest }))) := by
  have hn : nextAction s = isrAction s := by simp [nextAction, ha]
  unfold step at h
  rw [hn, isrAction] at h
  cases hr : s.irq.rx with
  | nil => rw [hr] at h; cases h; exact .inl rfl
  | cons p rest =>
    rw [hr] at h
    cases hp : p.received with
    | none => simp only [hp] at h; cases h; exact .inr (.inl rfl)
    | some bytes =>
      simp only [hp] at h
      cases hd : decode .usb bytes with
      | error e => simp only [hd] at h; cases h; exact .inr (.inl rfl)
      | ok i =>
        simp only [hd] at h
        obtain ⟨u, hu, rfl⟩ := afterRun_next h
        rcases exec_packet_next (decodeUsb_port hd) hu with rfl | ⟨token, htok, rfl⟩ | rfl
        · exact .inr (.inl rfl)
        · exact .inr (.inr ⟨p, rest, rfl, .inl ⟨token, htok, rfl⟩⟩)
        · exact .inr (.inr ⟨p, rest, rfl, .inr rfl⟩)

/-! ### The operands of the steps that an operation leads to -/

@[simp] theorem i2cWord_op (op : BitVec 3) (b : Byte) : (i2cWord op b).extractLsb' 8 3 = op :=
  BitVec.extractLsb'_append_eq_left

@[simp] theorem i2cWord_data (op : BitVec 3) (b : Byte) : (i2cWord op b).extractLsb' 0 8 = b :=
  BitVec.extractLsb'_append_eq_right

/-! The words that POLL issues to the sequencer are no reserved commands (R118). -/

@[simp] theorem i2cCmdOps_start : i2cCmdOps startWord = some startOps := by
  simp [startWord, i2cCmdOps, decodeI2cOp]

@[simp] theorem i2cCmdOps_rstart : i2cCmdOps rstartWord = some rstartOps := by
  simp [rstartWord, i2cCmdOps, decodeI2cOp]

@[simp] theorem i2cCmdOps_stop : i2cCmdOps stopWord = some stopOps := by
  simp [stopWord, i2cCmdOps, decodeI2cOp]

@[simp] theorem i2cCmdOps_write (b : Byte) : i2cCmdOps (writeWord b) = some (writeOps b) := by
  simp [writeWord, i2cCmdOps, decodeI2cOp]

@[simp] theorem i2cCmdOps_read (last : Bool) : i2cCmdOps (readWord last) = some (readOps last) := by
  cases last <;> simp [readWord, i2cCmdOps, decodeI2cOp]

/-! An operation's steps have their operands in range (`MicroOp.ok`): by its branches and its pieces. -/

theorem all_ok_append {a b : List MicroOp} (ha : a.all MicroOp.ok = true) (hb : b.all MicroOp.ok = true) :
    (a ++ b).all MicroOp.ok = true := by
  rw [List.all_append, ha, hb]; rfl

theorem all_ok_ite {c : Prop} [Decidable c] {a b : List MicroOp} (ha : a.all MicroOp.ok = true)
    (hb : b.all MicroOp.ok = true) : (if c then a else b).all MicroOp.ok = true := by
  split
  · exact ha
  · exact hb

@[simp] theorem writeBitOps_ok (v : Bool) : (writeBitOps v).all MicroOp.ok = true := by cases v <;> rfl

@[simp] theorem writeOps_ok (b : Byte) : (writeOps b).all MicroOp.ok = true := by
  simp only [writeOps, msbFirst, List.flatMap_cons, List.flatMap_nil, List.all_append, writeBitOps_ok]
  rfl

theorem readOps_ok (last : Bool) : (readOps last).all MicroOp.ok = true := by cases last <;> rfl

theorem i2cCmdOps_ok {w : BitVec 11} {ops : List MicroOp} (h : i2cCmdOps w = some ops) :
    ops.all MicroOp.ok = true := by
  unfold i2cCmdOps at h
  split at h <;> cases h
  · rfl
  · rfl
  · rfl
  · exact writeOps_ok _
  · exact readOps_ok _
  · exact readOps_ok _

theorem calCmdOps_ok {w : BitVec 2} {ops : List MicroOp} (h : calCmdOps w = some ops) :
    ops.all MicroOp.ok = true := by
  unfold calCmdOps at h
  split_ifs at h <;> cases h <;> rfl

theorem atLeastOne_ne_zero (v : Half) : atLeastOne v ≠ 0#16 := by
  unfold atLeastOne
  split
  · decide
  · assumption

theorem startTransferOps_ok (r : Byte) (src : TxState) (wl : Half) :
    (startTransferOps r src wl).all MicroOp.ok = true := all_ok_ite rfl rfl

theorem serveDescriptorOps_ok (d : Config.Descriptor) (wl : Half) :
    (serveDescriptorOps d wl).all MicroOp.ok = true := by
  cases d with
  | absent => rfl
  | inRom a n => rfl
  | inRam b => simp [serveDescriptorOps, List.mapIdx_eq_zipIdx_map, MicroOp.ok]

theorem getDescriptorOps_ok (s : State) (dtype dindex : Byte) (wi wl : Half) (digits : List Byte) :
    (getDescriptorOps s dtype dindex wi wl digits).all MicroOp.ok = true := by
  unfold getDescriptorOps
  split
  · rfl
  · rfl
  · exact serveDescriptorOps_ok _ _

/-- R236: both delays come out at least 1. -/
theorem delayOps_ok (v : Half) : (delayOps (atLeastOne v)).all MicroOp.ok = true := by
  simp [delayOps, MicroOp.ok, atLeastOne_ne_zero]

theorem i2cIoOps_ok (b e : Bool) (r : Setup) : (i2cIoOps b e r).all MicroOp.ok = true := by
  cases b <;> simp [i2cIoOps, MicroOp.ok]

theorem ioAddressOps_ok (ack b e rd : Bool) (a : BitVec 7) (n : Half) :
    (ioAddressOps ack b e rd a n).all MicroOp.ok = true := by
  unfold ioAddressOps
  refine all_ok_ite ?_ (by simp [MicroOp.ok])
  exact all_ok_append rfl (all_ok_ite (by simp [MicroOp.ok]) rfl)

theorem ioReplyOps_ok (s : State) (rd : Bool) (wl : Half) : (ioReplyOps s rd wl).all MicroOp.ok = true :=
  all_ok_ite rfl rfl

theorem writeCallbackOps_ok (s : State) (k : Bool) (m : Nat) : (writeCallbackOps s k m).all MicroOp.ok = true :=
  all_ok_ite rfl rfl

theorem writeLoopOps_ok (s : State) (k : Bool) (m j : Nat) : (writeLoopOps s k m j).all MicroOp.ok = true :=
  all_ok_ite (by simp [MicroOp.ok]) rfl

/-- The steps of a refill of k payload bytes, k at most 8, end with the length of a packet (R30, R165). -/
theorem refillEndOps_ok {k : Nat} (h : k ≤ 8) : (refillEndOps k).all MicroOp.ok = true := by
  simp [refillEndOps, MicroOp.ok, packetLength]
  omega

theorem appendCrcOps_ok (s : State) (k : Nat) (read : List Byte) : (appendCrcOps s k read).all MicroOp.ok = true :=
  all_ok_ite rfl rfl

theorem capacity_le (s : State) : capacity s ≤ 8 := Nat.min_le_left _ _

theorem refillOps_ok (s : State) : (refillOps s).all MicroOp.ok = true := by
  have hend := refillEndOps_ok (capacity_le s)
  unfold refillOps
  split
  · rfl
  · exact all_ok_append (all_ok_append (by simp [MicroOp.ok]) rfl) hend
  · exact all_ok_append (all_ok_append (by simp [MicroOp.ok]) rfl) hend
  · simpa [MicroOp.ok] using capacity_le s

theorem readCallbackOps_ok (s : State) {cap : Nat} (h : cap ≤ 8) : (readCallbackOps s cap).all MicroOp.ok = true := by
  unfold readCallbackOps
  refine all_ok_ite ?_ (all_ok_append (by simp [MicroOp.ok]) (refillEndOps_ok h))
  exact all_ok_append (all_ok_append (by simp [MicroOp.ok]) rfl)
    (refillEndOps_ok (Nat.le_trans (Nat.min_le_left _ _) h))

theorem readByteOps_ok (s : State) (i : Nat) : (readByteOps s i).all MicroOp.ok = true := by
  simp [readByteOps, MicroOp.ok]

theorem readSetupOps_ok (s : State) (k : Bool) (read : List Byte) : (readSetupOps s k read).all MicroOp.ok = true :=
  all_ok_ite rfl rfl

theorem s1SetupOps_ok (k : Bool) (n : Nat) : (s1SetupOps k n).all MicroOp.ok = true :=
  all_ok_append rfl (all_ok_ite rfl rfl)

theorem s1OutOps_ok (k : Bool) (n : Nat) : (s1OutOps k n).all MicroOp.ok = true :=
  all_ok_ite rfl (all_ok_ite rfl rfl)

theorem s1TakeOps_ok (len : Byte) (k : Bool) (token : Byte) : (s1TakeOps len k token).all MicroOp.ok = true :=
  all_ok_ite rfl (all_ok_append (all_ok_ite (s1SetupOps_ok k _) (s1OutOps_ok k _)) rfl)

theorem s2TakeOps_ok (s : State) (len : Byte) : (s2TakeOps s len).all MicroOp.ok = true :=
  all_ok_append (all_ok_ite (refillOps_ok s) rfl) rfl

theorem addressCommitOps_ok (s : State) : (addressCommitOps s).all MicroOp.ok = true := all_ok_ite rfl rfl

theorem sampleDmOps_ok (s : State) (left : Nat) : (sampleDmOps s left).all MicroOp.ok = true :=
  all_ok_ite rfl (all_ok_ite rfl rfl)

theorem calLoadOps_ok (v : Byte) : (calLoadOps v).all MicroOp.ok = true := all_ok_ite rfl rfl

theorem calNeighbourOps_ok (trial : Byte) : (calNeighbourOps trial).all MicroOp.ok = true := by
  simp [calNeighbourOps, measureOps, MicroOp.ok]

theorem calCompareOps_ok (s : State) (t : Byte) : (calCompareOps s t).all MicroOp.ok = true := all_ok_ite rfl rfl

theorem phaseOps_ok (p : PollPhase) : (phaseOps p).all MicroOp.ok = true := by cases p <;> rfl

/-- A step whose operands are in range leads to steps whose operands are. -/
theorem microStep_ok {op : MicroOp} {s t : State} {more : List MicroOp} (hop : op.ok = true)
    (h : microStep op s = .go more t) : more.all MicroOp.ok = true := by
  cases op
  case i2cCmd w => exact i2cCmdOps_ok (issue_go h).1
  case calCmd w => exact calCmdOps_ok (issue_go h).1
  case dispatch => cases h
  case s1Take => cases h; exact s1TakeOps_ok _ _ _
  case readSetup => cases h; exact readSetupOps_ok _ _ _
  case writeCallback => cases h; exact writeCallbackOps_ok _ _ _
  case writeLoop => cases h; exact writeLoopOps_ok _ _ _ _
  case s2Take => cases h; exact s2TakeOps_ok _ _
  case readCallback cap => cases h; exact readCallbackOps_ok _ (of_decide_eq_true hop)
  case readByte => cases h; exact readByteOps_ok _ _
  case stopIfDone => cases h; exact all_ok_ite (by simp [MicroOp.ok]) rfl
  case appendCrc => cases h; exact appendCrcOps_ok _ _ _
  case addressCommit => cases h; exact addressCommitOps_ok _
  case sampleDm => cases h; exact sampleDmOps_ok _ _
  case calibrateOnce => cases h; exact all_ok_ite rfl rfl
  case startTransfer => cases h; exact startTransferOps_ok _ _ _
  case getDescriptor => cases h; exact getDescriptorOps_ok _ _ _ _ _ _
  case setDelay => cases h; exact delayOps_ok _
  case ioAddress => cases h; exact ioAddressOps_ok _ _ _ _ _ _
  case ioReply => cases h; exact ioReplyOps_ok _ _ _
  case calLoad => cases h; exact calLoadOps_ok _
  case calNeighbours => cases h; exact calNeighbourOps_ok _
  case calCompare => cases h; exact calCompareOps_ok _ _
  case rstartCheck => simp only [microStep] at h; split at h <;> cases h; rfl
  case waitScl => simp only [microStep] at h; split at h <;> cases h; rfl
  case measureOpen => simp only [microStep] at h; split at h <;> cases h; rfl
  case measureEnd => simp only [microStep] at h; split at h <;> cases h; rfl
  all_goals cases h; rfl

/-- The steps of a request have their operands in range. -/
theorem instrOps_ok {i : Instr} {ops : List MicroOp} (h : instrOps i = some ops) : ops.all MicroOp.ok = true := by
  cases i <;> cases h
  case i2cWrite => exact writeOps_ok _
  case vendorI2cIo b e r => exact i2cIoOps_ok b e r
  case classI2cIo b e r => exact i2cIoOps_ok b e r
  all_goals rfl

/-! ### What POLL may do to the state -/

/-- What POLL keeps of the parts that the invariant of a run bounds: `rx_len` and the last toggle are only cleared (R21,
R83), the canonical RAM stays canonical, `tx_len` a packet length, the delays at least 1, no latch goes high. -/
structure PollBounds (s t : State) : Prop where
  rxLen     : t.usb.rxLen = s.usb.rxLen ∨ t.usb.rxLen = 0
  toggle    : t.usb.rxLastToggle = s.usb.rxLastToggle ∨ t.usb.rxLastToggle = none
  ram       : s.ram.wf = true → t.ram.wf = true
  txLen     : packetLength s.usb.txLen = true → packetLength t.usb.txLen = true
  fullDelay : 1 ≤ s.bridge.fullDelay.toNat → 1 ≤ t.bridge.fullDelay.toNat
  halfDelay : 1 ≤ s.bridge.halfDelay.toNat → 1 ≤ t.bridge.halfDelay.toNat
  neverHigh : NeverHigh s → NeverHigh t

/-- What POLL does to the state as a whole: the parts the ISR owns stay (R21, R83), the others within their bounds. -/
structure PollEffect (s t : State) : Prop extends PollBounds s t where
  rxBuf0   : t.usb.rxBuf0 = s.usb.rxBuf0
  rxBuf1   : t.usb.rxBuf1 = s.usb.rxBuf1
  rxSel    : t.usb.rxSel = s.usb.rxSel
  rxToken  : t.usb.rxToken = s.usb.rxToken
  token    : t.irq.token = s.irq.token
  active   : t.irq.active = s.irq.active
  nvSerial : t.cal.nvSerial = s.cal.nvSerial
  sent     : t.env.sent = s.env.sent
  wire     : t.wire = s.wire

theorem PollBounds.refl (s : State) : PollBounds s s := ⟨.inl rfl, .inl rfl, id, id, id, id, id⟩

theorem PollBounds.trans {s t u : State} (h : PollBounds s t) (h' : PollBounds t u) : PollBounds s u where
  rxLen := h'.rxLen.elim (fun e => e ▸ h.rxLen) .inr
  toggle := h'.toggle.elim (fun e => e ▸ h.toggle) .inr
  ram := h'.ram ∘ h.ram
  txLen := h'.txLen ∘ h.txLen
  fullDelay := h'.fullDelay ∘ h.fullDelay
  halfDelay := h'.halfDelay ∘ h.halfDelay
  neverHigh := h'.neverHigh ∘ h.neverHigh

theorem PollEffect.refl (s : State) : PollEffect s s := ⟨.refl s, rfl, rfl, rfl, rfl, rfl, rfl, rfl, rfl, rfl⟩

theorem PollEffect.trans {s t u : State} (h : PollEffect s t) (h' : PollEffect t u) : PollEffect s u where
  toPollBounds := h.toPollBounds.trans h'.toPollBounds
  rxBuf0 := h'.rxBuf0.trans h.rxBuf0
  rxBuf1 := h'.rxBuf1.trans h.rxBuf1
  rxSel := h'.rxSel.trans h.rxSel
  rxToken := h'.rxToken.trans h.rxToken
  token := h'.token.trans h.token
  active := h'.active.trans h.active
  nvSerial := h'.nvSerial.trans h.nvSerial
  sent := h'.sent.trans h.sent
  wire := h'.wire.trans h.wire

/-- The environment's move is within what POLL may do. -/
theorem PollEffect.tick (s : State) : PollEffect s (tick s) where
  toPollBounds := by constructor <;> simp [NeverHigh]
  rxBuf0 := by rw [tick_usb]
  rxBuf1 := by rw [tick_usb]
  rxSel := by rw [tick_usb]
  rxToken := by rw [tick_usb]
  token := tick_token s
  active := tick_active s
  nvSerial := by rw [tick_cal]
  sent := tick_sent s
  wire := tick_wire s

/-- POLL's continuation is no part of the effect. -/
theorem PollEffect.withCont (s : State) (ops : List MicroOp) : PollEffect s { s with poll.cont := ops } :=
  ⟨⟨.inl rfl, .inl rfl, id, id, id, id, id⟩, rfl, rfl, rfl, rfl, rfl, rfl, rfl, rfl, rfl⟩

theorem one_le_toNat_of_bne_zero {v : Half} (h : (v != 0) = true) : 1 ≤ v.toNat := by
  have : v ≠ 0 := by simpa using h
  bv_omega

theorem logDrive_sdaOut (p q : Pins) : (logDrive p q).sdaOut = q.sdaOut := by unfold logDrive; split <;> rfl

theorem logDrive_sclOut (p q : Pins) : (logDrive p q).sclOut = q.sclOut := by unfold logDrive; split <;> rfl

/-- A change of direction leaves the output latches. -/
theorem setDirection_neverHigh (l : I2cLine) (m : Dir) {s : State} (h : NeverHigh s) :
    NeverHigh (setDirection (.i2c l) m s) := by
  cases l <;> exact ⟨(logDrive_sdaOut _ _).trans h.1, (logDrive_sclOut _ _).trans h.2⟩

/-- Writing 0 to a latch keeps both at 0. -/
theorem setLine_false_neverHigh (l : I2cLine) {s : State} (h : NeverHigh s) :
    NeverHigh (setLine (.i2c l) false s) := by
  cases l
  · exact ⟨logDrive_sdaOut _ _, (logDrive_sclOut _ _).trans h.2⟩
  · exact ⟨(logDrive_sdaOut _ _).trans h.1, logDrive_sclOut _ _⟩

/-- An atomic step whose operands are in range keeps the bounds: the few steps that write a bounded part write an
operand, a cleared value or a RAM byte, and all others leave the bounded parts as they were. -/
theorem microStep_bounds {op : MicroOp} {s t : State} {more : List MicroOp} (hop : op.ok = true)
    (h : microStep op s = .go more t) : PollBounds s t := by
  cases op
  case setTxLen n => cases h; exact { PollBounds.refl s with txLen := fun _ => hop }
  case setRxLen n => cases h; exact { PollBounds.refl s with rxLen := .inr (eq_of_beq hop) }
  case clearToggle => cases h; exact { PollBounds.refl s with toggle := .inr rfl }
  case putReply i b => cases h; exact { PollBounds.refl s with ram := putReply_wf i b s }
  case putReplyStatus => cases h; exact { PollBounds.refl s with ram := putReply_wf 0 _ s }
  case setFullDelay f => cases h; exact { PollBounds.refl s with fullDelay := fun _ => one_le_toNat_of_bne_zero hop }
  case setHalfDelay d => cases h; exact { PollBounds.refl s with halfDelay := fun _ => one_le_toNat_of_bne_zero hop }
  case setDirection l m =>
    cases h
    cases l <;> exact { PollBounds.refl s with neverHigh := setDirection_neverHigh _ m }
  case setLine l v =>
    cases h
    have hv : v = false := by simpa [MicroOp.ok] using hop
    subst hv
    cases l <;> exact { PollBounds.refl s with neverHigh := setLine_false_neverHigh _ }
  case dispatch => cases h
  case i2cCmd => obtain ⟨-, rfl⟩ := issue_go h; exact .refl _
  case calCmd => obtain ⟨-, rfl⟩ := issue_go h; exact .refl _
  case endIfShort => cases h; split <;> exact { PollBounds.refl s with }
  case noteWriteAck => cases h; split <;> exact { PollBounds.refl s with }
  case calKeep => cases h; unfold calKeep; split <;> exact { PollBounds.refl s with }
  case rstartCheck => simp only [microStep] at h; split at h <;> cases h; exact .refl _
  case waitScl => simp only [microStep] at h; split at h <;> cases h; exact .refl _
  case measureOpen => simp only [microStep] at h; split at h <;> cases h; exact { PollBounds.refl s with }
  case measureEnd => simp only [microStep] at h; split at h <;> cases h; exact { PollBounds.refl s with }
  all_goals cases h; exact { PollBounds.refl s with }

/-- An atomic step whose operands are in range does only what POLL may do. -/
theorem microStep_effect {op : MicroOp} {s t : State} {more : List MicroOp} (hop : op.ok = true)
    (h : microStep op s = .go more t) : PollEffect s t := by
  obtain ⟨-, hirq, henv, hbuf0, hbuf1, hsel, htoken, hserial, hwire⟩ := microStep_frame h
  exact ⟨microStep_bounds hop h, hbuf0, hbuf1, hsel, htoken, by rw [hirq], by rw [hirq], hserial, by rw [henv],
    hwire⟩

/-- From a state on, POLL has only done what it may, and every step it is about to take has its operands in range. -/
def PollSound (s t : State) : Prop := PollEffect s t ∧ t.poll.cont.all MicroOp.ok = true

/-- That POLL does only what it may is an invariant of POLL. -/
theorem PollSound.invariant (s : State) : PollInvariant (PollSound s) where
  micro := by
    intro op rest more u u' ⟨heff, hok⟩ hm
    obtain ⟨hop, hrest⟩ : op.ok = true ∧ rest.all MicroOp.ok = true := by simpa using hok
    have heff : PollEffect s u := heff.trans (.withCont _ u.poll.cont)
    exact ⟨(heff.trans (microStep_effect hop hm)).trans (.withCont _ _), all_ok_append (microStep_ok hop hm) hrest⟩
  dispatch := by
    intro payload i ops rest u ⟨heff, hok⟩ _ hops
    exact ⟨heff.trans (.withCont _ _), all_ok_append (instrOps_ok hops) hok⟩
  drop := fun ⟨heff, hok⟩ => ⟨heff.trans (.withCont _ _), hok⟩
  phase := fun _ ⟨heff, _⟩ => ⟨heff.trans (.withCont _ _), phaseOps_ok _⟩
  env := fun ⟨heff, hok⟩ => ⟨heff.trans (.tick _), by simpa only [tick_poll] using hok⟩

/-- What a step outside the ISR does. -/
theorem step_poll_sound {s t : State} (hpending : s.poll.cont.all MicroOp.ok = true) (ha : s.irq.active = false)
    (hi : interruptDue s = false) (h : step s = .next t) : PollSound s t :=
  (PollSound.invariant s).step ha hi ⟨.refl s, hpending⟩ h

/-! ### The invariant of a run -/

/-- POLL keeps the invariant; the ISR does not run meanwhile. -/
theorem Inv.of_pollSound {s t : State} (h : Inv s) (ha : s.irq.active = false) (ht : PollSound s t) : Inv t := by
  obtain ⟨heff, hok⟩ := ht
  exact {
    ram := heff.ram h.ram
    rxLen := heff.rxLen.elim (fun e => e ▸ h.rxLen) (fun e => e ▸ rfl)
    rxToken := fun hne => heff.rxToken ▸ h.rxToken (heff.rxLen.elim (fun e => e ▸ hne) (absurd · hne))
    txLen := heff.txLen h.txLen
    fullDelay := heff.fullDelay h.fullDelay
    halfDelay := heff.halfDelay h.halfDelay
    neverHigh := heff.neverHigh h.neverHigh
    released := by rw [UsbReleased, heff.wire]; exact h.released
    masked := fun hact => by rw [heff.active, ha] at hact; cases hact
    pending := hok }

/-- The environment's moves keep the invariant. -/
theorem Inv.tick {s : State} (h : Inv s) : Inv (tick s) := by
  constructor
  case ram => simpa using h.ram
  case rxLen => simpa using h.rxLen
  case rxToken => simpa using h.rxToken
  case txLen => simpa using h.txLen
  case fullDelay => simpa using h.fullDelay
  case halfDelay => simpa using h.halfDelay
  case neverHigh => simpa [NeverHigh] using h.neverHigh
  case released => simpa [UsbReleased] using h.released
  case masked => simpa using h.masked
  case pending => simpa only [tick_poll] using h.pending

theorem Inv.interruptEntry {s : State} (h : Inv s) : Inv (interruptEntry s) := { h with masked := fun _ => rfl }

theorem Inv.interruptReturn {s : State} (h : Inv s) : Inv (interruptReturn s) := { h with masked := nofun }

theorem Inv.withRx {s : State} (h : Inv s) (rx : List RxPacket) : Inv { s with irq.rx := rx } := { h with }

theorem Inv.isrDone {s : State} (h : Inv s) : Inv (isrDone s) := h.withRx []

theorem Inv.receivePacket {s : State} (h : Inv s) : Inv (receivePacket s).2 := by
  unfold Machine.receivePacket
  split
  · exact h
  · exact h.withRx _

/-- Sending a packet leaves the USB lines released (R142). -/
theorem Inv.sendPacket {s : State} (h : Inv s) (p : List Byte) : Inv (sendPacket p s) := by
  rw [sendPacket_eq]
  exact { h with released := ⟨rfl, rfl⟩ }

theorem Inv.captureData {s : State} (h : Inv s) (d : List Byte) : Inv (captureData d s) := by
  unfold Machine.captureData
  split <;> exact { h with }

/-- A data packet that passes the tests has a packet's length (R147). -/
theorem dataOk_length {d : List Byte} (h : dataOk d = true) : 3 ≤ d.length ∧ d.length ≤ 11 := by
  simp only [dataOk, Config.bufBytes, Bool.and_eq_true, decide_eq_true_eq] at h
  exact h.1.1

theorem packetLength_ofNat {n : Nat} (h3 : 3 ≤ n) (h11 : n ≤ 11) : packetLength (BitVec.ofNat 8 n) = true := by
  simp only [packetLength, BitVec.toNat_ofNat, Bool.or_eq_true, Bool.and_eq_true, decide_eq_true_eq]
  omega

/-- A packet that is published has its length, and the token that the ISR serves as its tag (R26, R27). -/
theorem Inv.publishData {s : State} (h : Inv s) {d : List Byte} (hd : dataOk d = true)
    (htoken : s.irq.token = 0x2D ∨ s.irq.token = 0xE1) : Inv (publishData d s) := by
  obtain ⟨h3, h11⟩ := dataOk_length hd
  exact { h with rxLen := packetLength_ofNat h3 h11, rxToken := fun _ => htoken }

theorem Inv.isrData {s : State} (h : Inv s) (token : Byte) (d : List Byte)
    (htoken : s.irq.token = 0x2D ∨ s.irq.token = 0xE1) : Inv (isrData token d s) := by
  have hcap : Inv (Machine.captureData d s) := h.captureData d
  unfold Machine.isrData
  dsimp only
  split
  · exact hcap
  · next hd =>
    have hpub : Inv (Machine.publishData d (Machine.captureData d s)) :=
      hcap.publishData (by simpa using hd) (by simpa using htoken)
    split
    · exact hcap.sendPacket _
    · split
      · exact hcap.sendPacket _
      · exact hpub.sendPacket _

theorem receivePacket_token (s : State) : (receivePacket s).2.irq.token = s.irq.token := by
  unfold receivePacket; split <;> rfl

theorem Inv.isrSetupOut {s : State} (h : Inv s) {token : Byte} (htoken : token = 0x2D ∨ token = 0xE1) :
    Inv (isrSetupOut token s) := by
  have hs1 : Inv { s with irq.token := token } := { h with }
  have hrx := hs1.receivePacket
  have htok := receivePacket_token { s with irq.token := token }
  unfold Machine.isrSetupOut
  dsimp only
  split
  · next s2 heq => rw [heq] at hrx; exact hrx.isrDone
  · next d s2 heq => rw [heq] at hrx htok; exact (hrx.isrData token d (by rw [htok]; exact htoken)).isrDone

/-- An IN transaction leaves `tx_len` or clears it (R148). -/
theorem Inv.isrIn {s : State} (h : Inv s) : Inv (isrIn s) := by
  unfold Machine.isrIn
  split
  · exact (h.sendPacket _).isrDone
  · have hrx := (h.sendPacket (bufPacket s.usb.txBuf s.usb.txLen.toNat)).receivePacket
    split
    next hand s1 heq =>
    rw [heq] at hrx
    split
    · exact Inv.isrDone { hrx with txLen := rfl }
    · exact hrx.isrDone

/-- A step of the ISR keeps the invariant. -/
theorem Inv.step_isr {s t : State} (h : Inv s) (ha : s.irq.active = true) (hs : step s = .next t) : Inv t := by
  rcases step_isr_cases ha hs with rfl | rfl | ⟨p, rest, -, ⟨token, htoken, rfl⟩ | rfl⟩
  · exact h.interruptReturn.tick
  · exact h.isrDone.tick
  · exact ((h.withRx rest).isrSetupOut htoken).tick
  · exact (h.withRx rest).isrIn.tick

/-- Taking the interrupt is the only step outside the ISR while one is due (R322). -/
theorem step_interrupt {s t : State} (hi : interruptDue s = true) (hs : step s = .next t) :
    t = tick (interruptEntry s) := by
  have ha : s.irq.active = false := by simp only [interruptDue, Bool.and_eq_true, Bool.not_eq_true'] at hi; exact hi.2
  have hn : nextAction s = .interrupt s := by simp [nextAction, ha, hi]
  unfold step at hs
  rw [hn] at hs
  cases hs
  rfl

/-- Settles O11: the ISR, the interrupt's entry and POLL each keep the invariant. -/
theorem stepKeepsInv : Obligations.StepKeepsInv := by
  intro s t h hs
  cases ha : s.irq.active with
  | true => exact h.step_isr ha hs
  | false =>
    cases hi : interruptDue s with
    | true => rw [step_interrupt hi hs]; exact h.interruptEntry.tick
    | false => exact h.of_pollSound ha (step_poll_sound h.pending ha hi hs)

/-- Settles O16: the frame of what POLL may do. -/
theorem pollFrame : Obligations.PollFrame := by
  intro s t h ha hi hs
  obtain ⟨heff, -⟩ := step_poll_sound h.pending ha hi hs
  exact ⟨heff.rxBuf0, heff.rxBuf1, heff.rxSel, heff.rxToken, heff.rxLen, heff.toggle, heff.token,
    heff.active.trans ha, heff.nvSerial, heff.sent, heff.wire⟩

end Sys2Proof.Machine

/-! A request's atomic steps: which they are, how many one leads to, and that a clock-stretch wait among them always
stands behind a release of SCL. -/

namespace Sys2Proof.Machine

/-! ### The atomic steps of a request -/

/-- POLL's steps that a request is made of: the handlers of the dispatcher, the bridge up to the address phase, and the
I2C master (R203 to R209, R231 to R244, R270 to R286). -/
def MicroOp.ofRequest : MicroOp → Bool
  | .putReply _ _ | .putReplyStatus | .setCursor _ | .cursorToReply | .startTransfer _ _ _ | .setTxState _
  | .setTxTotal _ | .setNewAddress _ | .setAddrPending _ | .getDescriptor _ _ _ _ _ | .setDelay _ | .setFullDelay _
  | .setHalfDelay _ | .clearWriteFail | .ioAddress _ _ _ _ _ | .setStatus _ | .setRemaining _ | .setBegin _ | .setEnd _
  | .setRd _ | .setIoAddr _ | .ioReply _ _ | .i2cCmd _ | .rstartCheck | .setDirection _ _ | .setLine _ _ | .delay _
  | .waitScl | .sampleAck | .clearByte | .sampleBit _ => true
  | _ => false

/-- A bound on the steps that one step of a request leads to, those that these lead to among them. -/
def MicroOp.leads : MicroOp → Nat
  | .startTransfer _ _ _ => 2
  | .setDelay _ => 2
  | .getDescriptor _ _ _ _ digits => 258 + (2 - digits.length)
  | .ioAddress _ _ _ _ _ => 96
  | .ioReply _ _ => 4
  | .i2cCmd _ => 89
  | _ => 0

/-- A bound on how many atomic steps the running of a request's steps takes. -/
def runLength (ops : List MicroOp) : Nat := (ops.map (fun op => op.leads + 1)).sum

/-- Whether the master is known to let SCL be high after a step, from whether it is before it. -/
def MicroOp.freeAfter (free : Bool) : MicroOp → Bool
  | .waitScl | .delay _ => free
  | .setDirection l m => l == .scl && m == .input
  | _ => false

/-- Every clock-stretch wait stands behind a release of SCL, with nothing but delays between (R273); `free` says that SCL
is released before the first step. -/
def waitsReleased : Bool → List MicroOp → Bool
  | _, [] => true
  | free, op :: rest => (op != .waitScl || free) && waitsReleased (op.freeAfter free) rest

theorem freeAfter_mono {op : MicroOp} (h : op.freeAfter false = true) (free : Bool) : op.freeAfter free = true := by
  cases op
  case setDirection l m => exact h
  all_goals cases h

theorem waitsReleased_mono {ops : List MicroOp} (h : waitsReleased false ops = true) (free : Bool) :
    waitsReleased free ops = true := by
  induction ops generalizing free with
  | nil => rfl
  | cons op rest ih =>
    obtain ⟨hop, hrest⟩ : op ≠ .waitScl ∧ waitsReleased (op.freeAfter false) rest = true := by
      simpa [waitsReleased] using h
    have hrest' : waitsReleased (op.freeAfter free) rest = true := by
      cases hf : op.freeAfter false with
      | true => rw [freeAfter_mono hf]; rwa [hf] at hrest
      | false => exact ih (hf ▸ hrest) _
    simp [waitsReleased, hop, hrest']

theorem waitsReleased_append {free : Bool} {a b : List MicroOp} (ha : waitsReleased free a = true)
    (hb : waitsReleased false b = true) : waitsReleased free (a ++ b) = true := by
  induction a generalizing free with
  | nil => exact waitsReleased_mono hb free
  | cons op a ih =>
    obtain ⟨hop, hrest⟩ := Bool.and_eq_true_iff.mp ha
    exact Bool.and_eq_true_iff.mpr ⟨hop, ih hrest⟩

@[simp] theorem runLength_cons (op : MicroOp) (ops : List MicroOp) :
    runLength (op :: ops) = op.leads + 1 + runLength ops := rfl

@[simp] theorem runLength_append (a b : List MicroOp) : runLength (a ++ b) = runLength a + runLength b := by
  simp [runLength]

/-- Steps of a request, whose running takes at most n atomic steps and waits only on a released clock. -/
structure RequestSteps (n : Nat) (ops : List MicroOp) : Prop where
  kind   : ops.all MicroOp.ofRequest = true
  length : runLength ops ≤ n
  waits  : waitsReleased false ops = true

/-- The three checks evaluate on a list whose steps are known, whatever their operands. -/
theorem RequestSteps.of_eval {n : Nat} {ops : List MicroOp}
    (h : (ops.all MicroOp.ofRequest && (runLength ops).ble n && waitsReleased false ops) = true) :
    RequestSteps n ops := by
  simp only [Bool.and_eq_true, Nat.ble_eq] at h
  obtain ⟨⟨hkind, hlength⟩, hwaits⟩ := h
  exact ⟨hkind, hlength, hwaits⟩

theorem RequestSteps.nil (n : Nat) : RequestSteps n [] := ⟨rfl, Nat.zero_le n, rfl⟩

theorem RequestSteps.mono {n m : Nat} {ops : List MicroOp} (h : RequestSteps n ops) (hnm : n ≤ m) :
    RequestSteps m ops := { h with length := h.length.trans hnm }

theorem RequestSteps.append {n m : Nat} {a b : List MicroOp} (ha : RequestSteps n a) (hb : RequestSteps m b) :
    RequestSteps (n + m) (a ++ b) where
  kind := by rw [List.all_append, ha.kind, hb.kind]; rfl
  length := by rw [runLength_append]; exact Nat.add_le_add ha.length hb.length
  waits := waitsReleased_append ha.waits hb.waits

theorem RequestSteps.ite {n : Nat} {c : Prop} [Decidable c] {a b : List MicroOp} (ha : RequestSteps n a)
    (hb : RequestSteps n b) : RequestSteps n (if c then a else b) := by
  split
  · exact ha
  · exact hb

theorem RequestSteps.flatMap {α : Type} {n : Nat} {f : α → List MicroOp} (hf : ∀ x, RequestSteps n (f x)) :
    ∀ l : List α, RequestSteps (l.length * n) (l.flatMap f)
  | [] => .nil _
  | x :: l => ((hf x).append (RequestSteps.flatMap hf l)).mono (by rw [List.length_cons, Nat.succ_mul, Nat.add_comm])

theorem writeBitOps_request (v : Bool) : RequestSteps 10 (writeBitOps v) := by
  cases v <;> exact .of_eval rfl

theorem writeOps_request (b : Byte) : RequestSteps 89 (writeOps b) := by
  have hbits := RequestSteps.flatMap (fun i => writeBitOps_request (b.getLsbD i)) msbFirst
  have hack : RequestSteps 9 (release .sda ++ (sclHigh ++ ([.sampleAck, .delay .full] ++ sclLow))) :=
    .of_eval rfl
  rw [writeOps, List.append_assoc, List.append_assoc, List.append_assoc]
  exact hbits.append hack

theorem readOps_request (last : Bool) : RequestSteps 89 (readOps last) := by
  cases last <;> exact .of_eval rfl

/-- The commands of the sequencer (R118, R280 to R284). -/
theorem i2cCmdOps_request {w : BitVec 11} {ops : List MicroOp} (h : i2cCmdOps w = some ops) :
    RequestSteps 89 ops := by
  unfold i2cCmdOps at h
  split at h <;> cases h
  · exact .of_eval rfl
  · exact .of_eval rfl
  · exact .of_eval rfl
  · exact writeOps_request _
  · exact readOps_request _
  · exact readOps_request _

theorem startTransferOps_request (r : Byte) (src : TxState) (wl : Half) :
    RequestSteps 2 (startTransferOps r src wl) := .ite (.of_eval rfl) (.of_eval rfl)

theorem putReplies_request : ∀ (b : List Byte) (k : Nat),
    RequestSteps b.length (b.mapIdx (fun j v => .putReply (j + k) v))
  | [], _ => .nil _
  | v :: b, k => by
    have hrest := putReplies_request b (k + 1)
    have hhead : RequestSteps 1 [.putReply (0 + k) v] := .of_eval rfl
    rw [List.mapIdx_cons]
    simpa [Nat.add_comm, Nat.add_left_comm] using hhead.append hrest

/-- What R207 admits of a descriptor takes at most 258 steps: the 254 bytes of the longest one, the cursor, the
transfer. -/
theorem serveDescriptorOps_request (d : Config.Descriptor) (wl : Half) :
    RequestSteps 258 (serveDescriptorOps d.admitted wl) := by
  cases d with
  | absent => exact .of_eval rfl
  | inRom a n =>
    rw [Config.Descriptor.admitted]
    split <;> exact .of_eval rfl
  | inRam b =>
    rw [Config.Descriptor.admitted]
    split
    · next hb =>
      have htail : RequestSteps 4 [.cursorToReply, .startTransfer (BitVec.ofNat 8 b.length) .ram wl] := .of_eval rfl
      exact ((putReplies_request b 0).append htail).mono (Nat.add_le_add_right hb.1 4)
    · exact .of_eval rfl

theorem getDescriptorOps_request (s : State) (dtype dindex : Byte) (wi wl : Half) (digits : List Byte) :
    RequestSteps (258 + (2 - digits.length)) (getDescriptorOps s dtype dindex wi wl digits) := by
  unfold getDescriptorOps
  split
  · exact .of_eval rfl
  · exact .of_eval rfl
  · exact (serveDescriptorOps_request _ _).mono (Nat.le_add_right _ _)

theorem ioAddressOps_request (ack b e rd : Bool) (a : BitVec 7) (n : Half) :
    RequestSteps 96 (ioAddressOps ack b e rd a n) := by
  have hset : RequestSteps 6
      [.setStatus .addressAcked, .setRemaining n, .setBegin b, .setEnd e, .setRd rd, .setIoAddr a] :=
    .of_eval rfl
  have hstop : RequestSteps 90 (if e && n == 0 then [.i2cCmd stopWord] else []) := .ite (.of_eval rfl) (.nil _)
  exact .ite (hset.append hstop) (.of_eval rfl)

theorem ioReplyOps_request (s : State) (rd : Bool) (wl : Half) : RequestSteps 4 (ioReplyOps s rd wl) :=
  .ite (.of_eval rfl) (.of_eval rfl)

/-- The steps that a request's step leads to are a request's steps, within its bound. -/
theorem microStep_request {op : MicroOp} {s t : State} {more : List MicroOp} (hop : op.ofRequest = true)
    (h : microStep op s = .go more t) : RequestSteps op.leads more := by
  cases op
  case i2cCmd => exact i2cCmdOps_request (issue_go h).1
  case startTransfer => cases h; exact startTransferOps_request _ _ _
  case setDelay => cases h; exact .of_eval rfl
  case getDescriptor => cases h; exact getDescriptorOps_request _ _ _ _ _ _
  case ioAddress => cases h; exact ioAddressOps_request _ _ _ _ _ _
  case ioReply => cases h; exact ioReplyOps_request _ _ _
  case rstartCheck | waitScl => simp only [microStep] at h; split at h <;> cases h; exact .nil _
  all_goals cases hop <;> cases h <;> exact .nil _

theorem i2cIoOps_request (b e : Bool) (r : Setup) : RequestSteps opFuel (i2cIoOps b e r) := .of_eval rfl

/-- A request is made of a request's steps, and its fuel is enough for them (log entry 21). -/
theorem instrOps_request {i : Instr} (h : (encode i).1 = .request) :
    ∃ ops, instrOps i = some ops ∧ RequestSteps opFuel ops := by
  cases i
  case vendorI2cIo b e r => exact ⟨_, rfl, i2cIoOps_request b e r⟩
  case classI2cIo b e r => exact ⟨_, rfl, i2cIoOps_request b e r⟩
  case outToken | inToken | sof | setupToken | data0 | data1 | ack | nak | stall | pre => cases h
  case i2cReserved0 | i2cStart | i2cRstart | i2cStop | i2cWrite | i2cReadAck | i2cReadNak | i2cReserved7 => cases h
  case calReserved0 | calRun | calLoad | calReserved3 => cases h
  all_goals exact ⟨_, rfl, .of_eval rfl⟩

end Sys2Proof.Machine


/-! The transmit handoff is an invariant of the whole machine (O53): POLL's atomic steps keep it, and the ISR at most
clears `tx_len`. -/

namespace Sys2Proof.Machine

/-! ### The pending writes of `tx_buf` -/

/-- A step that neither writes `tx_buf` nor sets `tx_len` to a packet's length. -/
def MicroOp.sparesTx (op : MicroOp) : Bool := !op.writesTx && !op.fillsTx

theorem claimsTx_cons_of_ne {op : MicroOp} (h : ∀ n, op ≠ .setTxLen n) (rest : List MicroOp) :
    claimsTx (op :: rest) = (op.writesTx || claimsTx rest) := by
  cases op
  case setTxLen n => exact absurd rfl (h n)
  all_goals rfl

theorem claimsTx_cons_le {op : MicroOp} {rest : List MicroOp} (h : claimsTx (op :: rest) = true) :
    op.writesTx = true ∨ claimsTx rest = true := by
  by_cases hop : ∃ n, op = .setTxLen n
  · obtain ⟨n, rfl⟩ := hop; cases h
  · rw [claimsTx_cons_of_ne (not_exists.mp hop)] at h
    simpa using h

/-- A list claims `tx_buf` only where one of its parts does. -/
theorem claimsTx_append {a b : List MicroOp} (h : claimsTx (a ++ b) = true) :
    claimsTx a = true ∨ claimsTx b = true := by
  induction a with
  | nil => exact .inr h
  | cons op a ih =>
    by_cases hop : ∃ n, op = .setTxLen n
    · obtain ⟨n, rfl⟩ := hop; cases h
    · have hne := not_exists.mp hop
      rw [List.cons_append, claimsTx_cons_of_ne hne] at h
      rw [claimsTx_cons_of_ne hne]
      rcases Bool.or_eq_true_iff.mp h with hw | ht
      · exact .inl (by rw [hw]; rfl)
      · exact (ih ht).imp_left (fun h' => by rw [h', Bool.or_true])

theorem claimsTx_append_false {a b : List MicroOp} (ha : claimsTx a = false) (hb : claimsTx b = false) :
    claimsTx (a ++ b) = false := by
  by_contra h
  rcases claimsTx_append (Bool.not_eq_false _ ▸ h) with h' | h'
  · rw [ha] at h'; cases h'
  · rw [hb] at h'; cases h'

theorem claimsTx_of_spares {ops : List MicroOp} (h : ops.all MicroOp.sparesTx = true) : claimsTx ops = false := by
  induction ops with
  | nil => rfl
  | cons op rest ih =>
    obtain ⟨hop, hrest⟩ : op.sparesTx = true ∧ rest.all MicroOp.sparesTx = true := by simpa using h
    by_contra hc
    rcases claimsTx_cons_le (Bool.not_eq_false _ ▸ hc) with hw | hr
    · simp [MicroOp.sparesTx, hw] at hop
    · rw [ih hrest] at hr; cases hr

/-- Steps that hand no packet over leave the order of those behind them. -/
theorem txOrdered_append_of_noFill {a b : List MicroOp} (ha : a.any MicroOp.fillsTx = false)
    (hb : txOrdered b = true) : txOrdered (a ++ b) = true := by
  induction a with
  | nil => exact hb
  | cons op a ih =>
    obtain ⟨hop, hrest⟩ : op.fillsTx = false ∧ a.any MicroOp.fillsTx = false := by simpa using ha
    simp [txOrdered, hop, ih hrest]

theorem txOrdered_of_noFill {ops : List MicroOp} (h : ops.any MicroOp.fillsTx = false) : txOrdered ops = true := by
  rw [← List.append_nil ops]
  exact txOrdered_append_of_noFill h rfl

/-- Two ordered lists make an ordered one where the second claims nothing. -/
theorem txOrdered_append {a b : List MicroOp} (ha : txOrdered a = true) (hb : txOrdered b = true)
    (hclaim : claimsTx b = false) : txOrdered (a ++ b) = true := by
  induction a with
  | nil => exact hb
  | cons op a ih =>
    obtain ⟨hop, hrest⟩ : (op.fillsTx = true → claimsTx a = false) ∧ txOrdered a = true := by
      simpa [txOrdered, or_iff_not_imp_left] using ha
    have hop' : op.fillsTx = true → claimsTx (a ++ b) = false := fun hf => claimsTx_append_false (hop hf) hclaim
    simpa [txOrdered, or_iff_not_imp_left, ih hrest] using hop'

theorem all_append_of {p : MicroOp → Bool} {a b : List MicroOp} (ha : a.all p = true) (hb : b.all p = true) :
    (a ++ b).all p = true := by rw [List.all_append, ha, hb]; rfl

theorem all_ite_of {p : MicroOp → Bool} {c : Prop} [Decidable c] {a b : List MicroOp} (ha : a.all p = true)
    (hb : b.all p = true) : (if c then a else b).all p = true := by
  split
  · exact ha
  · exact hb

theorem sparesTx_of_ofRequest {op : MicroOp} (h : op.ofRequest = true) : op.sparesTx = true := by
  cases op
  case setTxPid | copyRam | copyRom | putTxByte | takeByte | toggleTxPid | appendCrc => cases h
  case readCallback | readByte | s2Len | s2Take | setTxLen => cases h
  all_goals rfl

/-- The steps `more` that a step leads to fit into the handoff: they write `tx_buf` only where the step was on the way to
that or where no packet waits, they are in order themselves, and hand a packet over only where the step was on the way
to that. -/
structure FitsHandoff (op : MicroOp) (s : State) (more : List MicroOp) : Prop where
  claims  : claimsTx more = true → op.writesTx = true ∨ s.usb.txLen = 0
  ordered : txOrdered more = true
  fills   : op.fillsTx = false → more.any MicroOp.fillsTx = false

theorem FitsHandoff.of_noFill {op : MicroOp} {s : State} {more : List MicroOp}
    (hclaim : claimsTx more = true → op.writesTx = true ∨ s.usb.txLen = 0)
    (hfill : more.any MicroOp.fillsTx = false) : FitsHandoff op s more :=
  ⟨hclaim, txOrdered_of_noFill hfill, fun _ => hfill⟩

theorem noFill_of_spares {ops : List MicroOp} (h : ops.all MicroOp.sparesTx = true) :
    ops.any MicroOp.fillsTx = false := by
  simp only [List.any_eq_false, List.all_eq_true, MicroOp.sparesTx, Bool.and_eq_true, Bool.not_eq_true'] at h ⊢
  intro op hmem
  rw [(h op hmem).2]
  exact Bool.false_ne_true

/-- Steps that have nothing to do with `tx_buf` fit everywhere. -/
theorem FitsHandoff.of_spares {op : MicroOp} {s : State} {more : List MicroOp}
    (h : more.all MicroOp.sparesTx = true) : FitsHandoff op s more :=
  .of_noFill (fun hc => by rw [claimsTx_of_spares h] at hc; cases hc) (noFill_of_spares h)

/-- A writing step may lead to any steps that hand nothing over. -/
theorem FitsHandoff.of_writes {op : MicroOp} {s : State} {more : List MicroOp} (hw : op.writesTx = true)
    (h : more.any MicroOp.fillsTx = false) : FitsHandoff op s more := .of_noFill (fun _ => .inl hw) h

/-- A refill's end hands the packet over with its last step (R84, R160, R165). -/
theorem refillEndOps_ordered (k : Nat) : txOrdered (refillEndOps k) = true := by
  simp [refillEndOps, txOrdered, MicroOp.fillsTx, claimsTx]

theorem any_fillsTx_map {α : Type} {f : α → MicroOp} (hf : ∀ x, (f x).fillsTx = false) (l : List α) :
    (l.map f).any MicroOp.fillsTx = false := by simp [hf]

theorem refillOps_ordered (s : State) : txOrdered (refillOps s) = true := by
  have hfrom : ∀ f : Nat → MicroOp, (∀ i, (f i).fillsTx = false) →
      txOrdered ((List.range (capacity s)).map f ++ [.advanceCursor (capacity s)] ++ refillEndOps (capacity s)) =
        true := by
    intro f hf
    rw [List.append_assoc]
    exact txOrdered_append_of_noFill (any_fillsTx_map hf _) (txOrdered_append_of_noFill rfl (refillEndOps_ordered _))
  unfold refillOps
  split
  · rfl
  · exact hfrom .copyRam (fun _ => rfl)
  · exact hfrom .copyRom (fun _ => rfl)
  · rfl

theorem readCallbackOps_ordered (s : State) (cap : Nat) : txOrdered (readCallbackOps s cap) = true := by
  unfold readCallbackOps
  split
  · dsimp only
    rw [List.append_assoc]
    exact txOrdered_append_of_noFill (any_fillsTx_map (fun _ => rfl) _)
      (txOrdered_append_of_noFill rfl (refillEndOps_ordered _))
  · exact txOrdered_append_of_noFill (any_fillsTx_map (fun _ => rfl) _) (refillEndOps_ordered _)

/-- S2 hands over only behind a snapshot of `tx_len` that read 0, which is a claim (R160). -/
theorem s2TakeOps_fits (s : State) (len : Byte) : FitsHandoff (.s2Take len) s (s2TakeOps s len) where
  claims := by
    intro hc
    by_cases hlen : len = 0
    · exact .inl (by simp [MicroOp.writesTx, hlen])
    · have hnone : s2TakeOps s len = [.addressCommit, .goto .s3] := by
        rw [s2TakeOps, refillDue, beq_false_of_ne hlen]
        rfl
      rw [hnone] at hc
      cases hc
  ordered := by
    have hrefill : txOrdered (if refillDue s len then refillOps s else []) = true := by
      split
      · exact refillOps_ordered s
      · rfl
    exact txOrdered_append hrefill rfl rfl
  fills := nofun

/-- S1 writes DATA1's PID only after it has taken the packet back (R84, R152). -/
theorem s1TakeOps_fits (len : Byte) (k : Bool) (token : Byte) (s : State) :
    FitsHandoff (.s1Take len k token) s (s1TakeOps len k token) := by
  unfold s1TakeOps
  split
  · exact .of_spares rfl
  · split
    · unfold s1SetupOps
      dsimp only
      split <;> exact .of_noFill nofun rfl
    · exact .of_spares (all_append_of (all_ite_of rfl (all_ite_of rfl rfl)) rfl)

theorem calCmdOps_sparesTx {w : BitVec 2} {ops : List MicroOp} (h : calCmdOps w = some ops) :
    ops.all MicroOp.sparesTx = true := by
  unfold calCmdOps at h
  split_ifs at h <;> cases h <;> rfl

theorem calNeighbourOps_sparesTx (trial : Byte) : (calNeighbourOps trial).all MicroOp.sparesTx = true := by
  simp [calNeighbourOps, measureOps, MicroOp.sparesTx, MicroOp.writesTx, MicroOp.fillsTx]

/-- S3's bus reset takes the packet back and writes nothing (R170). -/
theorem sampleDmOps_sparesTx (s : State) (left : Nat) : (sampleDmOps s left).all MicroOp.sparesTx = true :=
  all_ite_of rfl (all_ite_of rfl rfl)

theorem ofRequest_all_sparesTx {ops : List MicroOp} (h : ops.all MicroOp.ofRequest = true) :
    ops.all MicroOp.sparesTx = true :=
  List.all_eq_true.mpr fun x hx => sparesTx_of_ofRequest (List.all_eq_true.mp h x hx)

/-- Every step leads to steps that fit into the handoff. -/
theorem microStep_fits {op : MicroOp} {s t : State} {more : List MicroOp} (h : microStep op s = .go more t) :
    FitsHandoff op s more := by
  cases hop : op.ofRequest with
  | true => exact .of_spares (ofRequest_all_sparesTx (microStep_request hop h).kind)
  | false =>
  cases op
  case s2Len => cases h; exact ⟨fun hc => .inr (by simpa [claimsTx, MicroOp.writesTx] using hc), rfl, nofun⟩
  case s2Take len => cases h; exact s2TakeOps_fits s len
  case readCallback cap => cases h; exact ⟨fun _ => .inl rfl, readCallbackOps_ordered s cap, nofun⟩
  case s1Take len k token => cases h; exact s1TakeOps_fits len k token s
  case copyRam | copyRom | readByte | toggleTxPid => cases h; exact .of_writes rfl rfl
  case appendCrc k read => cases h; exact .of_writes rfl (by unfold appendCrcOps; split <;> rfl)
  case dispatch => cases h
  case calCmd => exact .of_spares (calCmdOps_sparesTx (issue_go h).1)
  case readSetup | writeCallback | writeLoop | stopIfDone | addressCommit | calibrateOnce | calLoad | calCompare =>
    cases h; exact .of_spares (all_ite_of rfl rfl)
  case sampleDm => cases h; exact .of_spares (sampleDmOps_sparesTx _ _)
  case calNeighbours => cases h; exact .of_spares (calNeighbourOps_sparesTx _)
  case measureOpen | measureEnd => simp only [microStep] at h; split at h <;> cases h; exact .of_spares rfl
  all_goals cases hop <;> cases h <;> exact .of_spares rfl

/-- POLL writes `tx_len` with one step only (R84). -/
theorem microStep_txLen {op : MicroOp} {s t : State} {more : List MicroOp} (hop : ∀ n, op ≠ .setTxLen n)
    (h : microStep op s = .go more t) : t.usb.txLen = s.usb.txLen := by
  cases op
  case setTxLen n => exact absurd rfl (hop n)
  case dispatch => cases h
  case i2cCmd | calCmd => obtain ⟨-, rfl⟩ := issue_go h; rfl
  case setDirection l m => cases h; rw [setDirection_usb]
  case setLine l v => cases h; rw [setLine_usb]
  case endIfShort | noteWriteAck => cases h; split <;> rfl
  case calKeep => cases h; rw [calKeep_usb]
  case rstartCheck | waitScl | measureOpen | measureEnd => simp only [microStep] at h; split at h <;> cases h; rfl
  all_goals cases h; rfl

/-! ### The transmit handoff along POLL -/

/-- The handoff depends on `tx_len` and on what POLL is about to do; clearing `tx_len` keeps it. -/
theorem TxHandoff.of_cont {s t : State} (h : TxHandoff s) (hcont : t.poll.cont = s.poll.cont)
    (hlen : t.usb.txLen = s.usb.txLen ∨ t.usb.txLen = 0) : TxHandoff t where
  exclusive := fun hne => by
    rw [hcont]
    exact h.exclusive (hlen.elim (fun e => e ▸ hne) (fun e => absurd e hne))
  ordered := hcont ▸ h.ordered

/-- Steps that have nothing to do with `tx_buf` may come in front. -/
theorem TxHandoff.prepend_spares {s : State} {ops rest : List MicroOp} (hops : ops.all MicroOp.sparesTx = true)
    (h : TxHandoff { s with poll.cont := rest }) : TxHandoff { s with poll.cont := ops ++ rest } where
  exclusive := fun hne => claimsTx_append_false (claimsTx_of_spares hops) (h.exclusive hne)
  ordered := txOrdered_append_of_noFill (noFill_of_spares hops) h.ordered

/-- An atomic step keeps the handoff: `setTxLen` of a packet's length has no write behind it, and every other step
leaves `tx_len` and claims what it leads to. -/
theorem TxHandoff.micro {op : MicroOp} {rest more : List MicroOp} {s t : State}
    (h : TxHandoff { s with poll.cont := op :: rest }) (hm : microStep op s = .go more t) :
    TxHandoff { t with poll.cont := more ++ rest } := by
  have hfits := microStep_fits hm
  obtain ⟨hopOrdered, hrest⟩ : (op.fillsTx = true → claimsTx rest = false) ∧ txOrdered rest = true := by
    simpa [txOrdered, or_iff_not_imp_left] using h.ordered
  refine ⟨fun hne => ?_, ?_⟩
  · by_cases hset : ∃ n, op = .setTxLen n
    · obtain ⟨n, rfl⟩ := hset
      cases hm
      exact hopOrdered (by simpa [MicroOp.fillsTx] using hne)
    · have hset' := not_exists.mp hset
      have hs : s.usb.txLen ≠ 0 := by rw [← microStep_txLen hset' hm]; exact hne
      obtain ⟨hop, hclaim⟩ : op.writesTx = false ∧ claimsTx rest = false := by
        simpa [claimsTx_cons_of_ne hset'] using h.exclusive hs
      refine claimsTx_append_false ?_ hclaim
      by_contra hmore
      rcases hfits.claims (Bool.not_eq_false _ ▸ hmore) with hw | hz
      · rw [hop] at hw; cases hw
      · exact hs hz
  · cases hf : op.fillsTx with
    | true => exact txOrdered_append hfits.ordered hrest (hopOrdered hf)
    | false => exact txOrdered_append_of_noFill (hfits.fills hf) hrest

/-- The handoff is an invariant of POLL. -/
theorem TxHandoff.invariant : PollInvariant TxHandoff where
  micro := TxHandoff.micro
  dispatch := by
    intro payload i ops rest s h hd hops
    obtain ⟨ops', hops', hreq⟩ := instrOps_request (decodeRequest_port hd)
    cases hops.symm.trans hops'
    exact .prepend_spares (ofRequest_all_sparesTx hreq.kind) ⟨h.exclusive, h.ordered⟩
  drop := fun h => ⟨h.exclusive, h.ordered⟩
  phase := by
    intro s _ _
    cases hp : s.poll.phase <;> exact ⟨fun _ => rfl, rfl⟩
  env := fun h => h.of_cont (by rw [tick_poll]) (.inl (by rw [tick_usb]))

/-! ### What the ISR leaves of POLL's part of the state -/

/-- The state `w` with the part that POLL alone writes, and the lines the bus agent holds, as in `p`. -/
def State.withPollOf (w p : State) : State :=
  { w with
    ram := p.ram, bridge := p.bridge, pins := p.pins, cal := p.cal
    usb.txState := p.usb.txState, usb.txTotal := p.usb.txTotal, usb.txCursor := p.usb.txCursor
    usb.txBuf := p.usb.txBuf, usb.newAddress := p.usb.newAddress, usb.addrPending := p.usb.addrPending
    usb.address := p.usb.address, env.sdaLow := p.env.sdaLow, env.sclLow := p.env.sclLow }

/-- What may happen outside POLL, by the ISR or by a move of the host: POLL's part and its position stay, the scripts of
the environment too, and `tx_len` stays or is cleared (R81, R148, R323). -/
structure OutsideEffect (s t : State) : Prop where
  owned : t.withPollOf s = t
  poll  : t.poll = s.poll
  host  : t.env.host = s.env.host
  bus   : t.env.bus = s.env.bus
  txLen : t.usb.txLen = s.usb.txLen ∨ t.usb.txLen = 0

theorem withPollOf_trans {s t u : State} (h : u.withPollOf t = u) (h' : t.withPollOf s = t) : u.withPollOf s = u :=
  calc u.withPollOf s = u.withPollOf (t.withPollOf s) := rfl
    _ = u := by rw [h', h]

theorem OutsideEffect.trans {s t u : State} (h : OutsideEffect s t) (h' : OutsideEffect t u) : OutsideEffect s u where
  owned := withPollOf_trans h'.owned h.owned
  poll := h'.poll.trans h.poll
  host := h'.host.trans h.host
  bus := h'.bus.trans h.bus
  txLen := h'.txLen.elim (fun e => e ▸ h.txLen) .inr

theorem OutsideEffect.withIrq (s : State) (q : Irq) : OutsideEffect s { s with irq := q } :=
  ⟨rfl, rfl, rfl, rfl, .inl rfl⟩

theorem OutsideEffect.interruptEntry (s : State) : OutsideEffect s (interruptEntry s) :=
  ⟨rfl, rfl, rfl, rfl, .inl rfl⟩

/-- What the ISR's body does: it leaves the latch too, to the next edge (R322). -/
structure BodyEffect (s t : State) : Prop extends OutsideEffect s t where
  pending : t.irq.pending = s.irq.pending

theorem BodyEffect.refl (s : State) : BodyEffect s s := ⟨⟨rfl, rfl, rfl, rfl, .inl rfl⟩, rfl⟩

theorem BodyEffect.trans {s t u : State} (h : BodyEffect s t) (h' : BodyEffect t u) : BodyEffect s u :=
  ⟨h.toOutsideEffect.trans h'.toOutsideEffect, h'.pending.trans h.pending⟩

theorem BodyEffect.withRx (s : State) (rx : List RxPacket) : BodyEffect s { s with irq.rx := rx } :=
  ⟨.withIrq s _, rfl⟩

theorem BodyEffect.withToken (s : State) (token : Byte) : BodyEffect s { s with irq.token := token } :=
  ⟨.withIrq s _, rfl⟩

theorem BodyEffect.isrDone (s : State) : BodyEffect s (isrDone s) := .withRx s []

theorem BodyEffect.receivePacket (s : State) : BodyEffect s (receivePacket s).2 := by
  unfold Machine.receivePacket
  split
  · exact .refl s
  · exact .withRx s _

theorem BodyEffect.sendPacket (p : List Byte) (s : State) : BodyEffect s (sendPacket p s) := by
  rw [sendPacket_eq]
  exact ⟨⟨rfl, rfl, rfl, rfl, .inl rfl⟩, rfl⟩

theorem BodyEffect.captureData (d : List Byte) (s : State) : BodyEffect s (captureData d s) := by
  unfold Machine.captureData
  split <;> exact ⟨⟨rfl, rfl, rfl, rfl, .inl rfl⟩, rfl⟩

theorem BodyEffect.publishData (d : List Byte) (s : State) : BodyEffect s (publishData d s) :=
  ⟨⟨rfl, rfl, rfl, rfl, .inl rfl⟩, rfl⟩

theorem BodyEffect.isrData (token : Byte) (d : List Byte) (s : State) : BodyEffect s (isrData token d s) := by
  have hcap := BodyEffect.captureData d s
  unfold Machine.isrData
  dsimp only
  split
  · exact hcap
  · split
    · exact hcap.trans (.sendPacket _ _)
    · split
      · exact hcap.trans (.sendPacket _ _)
      · exact (hcap.trans (.publishData d _)).trans (.sendPacket _ _)

theorem BodyEffect.isrSetupOut (token : Byte) (s : State) : BodyEffect s (isrSetupOut token s) := by
  have hrx := (BodyEffect.withToken s token).trans (.receivePacket _)
  unfold Machine.isrSetupOut
  dsimp only
  split
  · next s2 heq => rw [heq] at hrx; exact hrx.trans (.isrDone s2)
  · next d s2 heq => rw [heq] at hrx; exact (hrx.trans (.isrData token d s2)).trans (.isrDone _)

/-- The host's acknowledge of an IN packet clears `tx_len` (R148). -/
theorem BodyEffect.isrIn (s : State) : BodyEffect s (isrIn s) := by
  unfold Machine.isrIn
  split
  · exact (BodyEffect.sendPacket _ s).trans (.isrDone _)
  · have hrx := (BodyEffect.sendPacket (bufPacket s.usb.txBuf s.usb.txLen.toNat) s).trans (.receivePacket _)
    split
    next hand s1 heq =>
    rw [heq] at hrx
    refine hrx.trans (.trans ?_ (.isrDone _))
    split
    · exact ⟨⟨rfl, rfl, rfl, rfl, .inr rfl⟩, rfl⟩
    · exact .refl s1

theorem isrSetupOut_rx (token : Byte) (s : State) : (isrSetupOut token s).irq.rx = [] := by
  unfold isrSetupOut
  dsimp only
  split <;> rfl

theorem isrIn_rx (s : State) : (isrIn s).irq.rx = [] := by
  unfold isrIn
  split
  · rfl
  · split; rfl

/-- A step of the ISR stays outside POLL's part, and leaves the latch and no packet of its transaction; the environment
moves after it. -/
theorem step_isr_effect {s t : State} (ha : s.irq.active = true) (h : step s = .next t) :
    ∃ v, t = tick v ∧ OutsideEffect s v ∧ v.irq.pending = s.irq.pending ∧ v.irq.rx = [] := by
  rcases step_isr_cases ha h with rfl | rfl | ⟨p, rest, -, ⟨token, -, rfl⟩ | rfl⟩
  · exact ⟨_, rfl, .withIrq s _, rfl, rfl⟩
  · exact ⟨_, rfl, .withIrq s _, rfl, rfl⟩
  · have hv := (BodyEffect.withRx s rest).trans (.isrSetupOut token _)
    exact ⟨_, rfl, hv.toOutsideEffect, hv.pending, isrSetupOut_rx _ _⟩
  · have hv := (BodyEffect.withRx s rest).trans (.isrIn _)
    exact ⟨_, rfl, hv.toOutsideEffect, hv.pending, isrIn_rx _⟩

/-! ### The transmit handoff along every step -/

theorem TxHandoff.of_isr {s v : State} (h : TxHandoff s) (hv : OutsideEffect s v) : TxHandoff (tick v) :=
  h.of_cont (by rw [tick_poll, hv.poll]) (by rw [tick_usb]; exact hv.txLen)

/-- Settles O53: POLL keeps the handoff by its atomic steps, and the ISR at most clears `tx_len`. -/
theorem stepKeepsTxHandoff : Obligations.StepKeepsTxHandoff := by
  intro s t h hs
  cases ha : s.irq.active with
  | true =>
    obtain ⟨v, rfl, hv, -⟩ := step_isr_effect ha hs
    exact h.of_isr hv
  | false =>
    cases hi : interruptDue s with
    | true => rw [step_interrupt hi hs]; exact h.of_isr (.interruptEntry s)
    | false => exact TxHandoff.invariant.step ha hi h hs

end Sys2Proof.Machine

/-! A request that interrupts break into comes to what it comes to undisturbed (O56): POLL's steps do on POLL's part of
the state what they do in the undisturbed run, the ISR leaves that part alone, and it returns after finitely many
steps because each of them uses up an edge, a packet or a move of the host. -/

namespace Sys2Proof.Machine

/-! ### An atomic step sees POLL's part of the state only -/

/-- A request's step does the same on POLL's part in every world around it. -/
theorem microStep_withPollOf {op : MicroOp} {p p' : State} {more : List MicroOp} (hop : op.ofRequest = true)
    (h : microStep op p = .go more p') (w : State) :
    microStep op (w.withPollOf p) = .go more (w.withPollOf p') := by
  cases op
  case i2cCmd c => obtain ⟨hc, rfl⟩ := issue_go h; simp [microStep, hc, issue]
  case rstartCheck =>
    simp only [microStep] at h
    split at h <;> cases h
    next hscl => exact if_pos (c := (w.withPollOf p).pins.sclDir = .output) hscl
  case waitScl =>
    simp only [microStep] at h
    split at h <;> cases h
    next hscl => exact if_pos (c := readLine (w.withPollOf p) (.i2c .scl) = true) hscl
  case setDirection l m => cases h; cases l <;> rfl
  case setLine l v => cases h; cases l <;> rfl
  all_goals cases hop <;> cases h <;> rfl

/-! ### The undisturbed run -/

/-- The undisturbed run has these steps left from q, ends in r, and has the fuel for them: nothing moves, nothing is
latched, and no wait will hold. -/
structure Undisturbed (n : Nat) (todo : List MicroOp) (q r : State) : Prop where
  run    : runOps n todo q = .next r
  kind   : todo.all MicroOp.ofRequest = true
  length : runLength todo ≤ n
  waits  : waitsReleased (q.pins.sclDir == .input) todo = true
  host   : q.env.host = []
  bus    : q.env.bus = []
  latch  : q.irq.pending = false
  scl    : q.env.sclLow = false

theorem Undisturbed.nil {n : Nat} {q r : State} (h : Undisturbed n [] q r) : r = q := by
  have hrun := h.run
  rw [runOps_nil] at hrun
  cases hrun
  rfl

theorem readLine_scl {s : State} (hdir : s.pins.sclDir = .input) (hlow : s.env.sclLow = false) :
    readLine s (.i2c .scl) = true := by simp [readLine, released, lineDir, extLow, hdir, hlow]

/-- Only the wait can hold, and only while the clock is low (R273). -/
theorem microStep_hold_request {op : MicroOp} {s : State} (hop : op.ofRequest = true) (h : microStep op s = .hold) :
    op = .waitScl ∧ readLine s (.i2c .scl) = false := by
  cases op
  case waitScl =>
    simp only [microStep] at h
    split at h
    · cases h
    · next hscl => exact ⟨rfl, by simpa using hscl⟩
  case rstartCheck => simp only [microStep] at h; split at h <;> cases h
  case i2cCmd c => simp only [microStep, issue] at h; split at h <;> cases h
  all_goals cases hop <;> cases h

/-- After a step that leaves SCL released, no further steps of its own come first. -/
theorem microStep_freeAfter {op : MicroOp} {s t : State} {more : List MicroOp}
    (hf : op.freeAfter (s.pins.sclDir == .input) = true) (h : microStep op s = .go more t) :
    more = [] ∧ t.pins.sclDir = .input := by
  cases op
  case waitScl =>
    simp only [microStep] at h
    split at h <;> cases h
    exact ⟨rfl, eq_of_beq hf⟩
  case delay d => cases h; exact ⟨rfl, eq_of_beq hf⟩
  case setDirection l m =>
    obtain ⟨rfl, rfl⟩ : l = .scl ∧ m = .input := by simpa [MicroOp.freeAfter] using hf
    cases h
    exact ⟨rfl, by simp only [setDirection, logDrive]; split <;> rfl⟩
  all_goals cases hf

/-- The undisturbed run takes its next step. -/
theorem Undisturbed.micro {n : Nat} {op : MicroOp} {todo : List MicroOp} {q r : State}
    (h : Undisturbed n (op :: todo) q r) :
    ∃ m more q', n = m + 1 ∧ microStep op q = .go more q' ∧ Undisturbed m (more ++ todo) q' r := by
  obtain ⟨hop, htodo⟩ : op.ofRequest = true ∧ todo.all MicroOp.ofRequest = true := by simpa using h.kind
  obtain ⟨hwait, hwaits⟩ : (op = .waitScl → q.pins.sclDir = .input) ∧
      waitsReleased (op.freeAfter (q.pins.sclDir == .input)) todo = true := by
    simpa [waitsReleased, or_iff_not_imp_left] using h.waits
  have hlength : op.leads + 1 + runLength todo ≤ n := by simpa using h.length
  obtain ⟨m, rfl⟩ : ∃ m, n = m + 1 := Nat.exists_eq_succ_of_ne_zero (by omega)
  have hi : interruptDue q = false := by simp [interruptDue, h.latch]
  have hrun := h.run
  cases hm : microStep op q with
  | fault f => simp [runOps, hi, hm] at hrun
  | hold =>
    obtain ⟨rfl, hlow⟩ := microStep_hold_request hop hm
    rw [readLine_scl (hwait rfl) h.scl] at hlow
    cases hlow
  | go more q' =>
    have hmore := microStep_request hop hm
    obtain ⟨-, hirq, henv, -⟩ := microStep_frame hm
    have hhost : q'.env.host = [] := by rw [henv]; exact h.host
    have hbus : q'.env.bus = [] := by rw [henv]; exact h.bus
    rw [runOps_go hi hm, tick_quiet q' hhost hbus] at hrun
    refine ⟨m, more, q', rfl, rfl, hrun, all_append_of hmore.kind htodo, ?_, ?_, hhost, hbus, ?_, ?_⟩
    · have := hmore.length
      rw [runLength_append]
      omega
    · cases hf : op.freeAfter (q.pins.sclDir == .input) with
      | true =>
        obtain ⟨rfl, hdir⟩ := microStep_freeAfter hf hm
        rw [hf] at hwaits
        rw [hdir]
        exact hwaits
      | false => exact waitsReleased_append (waitsReleased_mono hmore.waits _) (hf ▸ hwaits)
    · rw [hirq]; exact h.latch
    · rw [henv]; exact h.scl

/-! ### The disturbed run follows it -/

/-- The disturbed run, at a, is where the undisturbed run is at q: they agree in POLL's part, and the ISR may have cleared
`tx_len`. -/
structure Pursues (r : State) (n : Nat) (todo : List MicroOp) (q a : State) : Prop where
  ahead : Undisturbed n todo q r
  owned : a.withPollOf q = a
  bus   : a.env.bus = []
  txLen : a.usb.txLen = r.usb.txLen ∨ a.usb.txLen = 0

theorem hostMove_outside (e : HostEvent) (s : State) : OutsideEffect s (hostMove e s) := by
  cases e with
  | idle => exact (BodyEffect.refl s).toOutsideEffect
  | withdraw => exact ⟨rfl, rfl, rfl, rfl, .inl rfl⟩
  | _ => simp only [hostMove]; split <;> exact ⟨rfl, rfl, rfl, rfl, .inl rfl⟩

theorem hostTick_outside (s : State) : OutsideEffect { s with env.host := s.env.host.tail } (hostTick s) := by
  unfold hostTick
  split
  · next hh => exact ⟨rfl, rfl, by rw [hh]; rfl, rfl, .inl rfl⟩
  · next e rest hh => rw [hh]; exact hostMove_outside e _

/-- While the bus agent stands still, the environment's move is the host's next one. -/
theorem tick_outside {s : State} (h : s.env.bus = []) :
    OutsideEffect { s with env.host := s.env.host.tail } (tick s) := by
  have hhost := hostTick_outside s
  have hbus : (hostTick s).env.bus = [] := hhost.bus.trans h
  have htick : tick s = hostTick s := by unfold tick busTick; rw [hbus]
  rw [htick]
  exact hhost

theorem tick_owned {s : State} (h : s.env.bus = []) : (tick s).withPollOf s = tick s := (tick_outside h).owned

theorem Pursues.tick {r q a : State} {n : Nat} {todo : List MicroOp} (h : Pursues r n todo q a) :
    Pursues r n todo q (tick a) where
  ahead := h.ahead
  owned := withPollOf_trans (tick_owned h.bus) h.owned
  bus := (tick_outside h.bus).bus.trans h.bus
  txLen := by rw [tick_usb]; exact h.txLen

theorem Pursues.of_outside {r q a v : State} {n : Nat} {todo : List MicroOp} (h : Pursues r n todo q a)
    (hv : OutsideEffect a v) : Pursues r n todo q v where
  ahead := h.ahead
  owned := withPollOf_trans hv.owned h.owned
  bus := hv.bus.trans h.bus
  txLen := hv.txLen.elim (fun e => e ▸ h.txLen) .inr

theorem Pursues.withPoll {r q a : State} {n : Nat} {todo : List MicroOp} (h : Pursues r n todo q a) (p : Poll) :
    Pursues r n todo q { a with poll := p } where
  ahead := h.ahead
  owned := congrArg (fun s : State => { s with poll := p }) h.owned
  bus := h.bus
  txLen := h.txLen

/-- An atomic step of the disturbed run is the undisturbed run's. -/
theorem Pursues.micro {r q a : State} {n : Nat} {op : MicroOp} {todo : List MicroOp}
    (h : Pursues r n (op :: todo) q a) :
    ∃ m more q' a', n = m + 1 ∧ microStep op a = .go more a' ∧ a'.poll = a.poll ∧
      Pursues r m (more ++ todo) q' a' := by
  obtain ⟨m, more, q', rfl, hm, hahead⟩ := h.ahead.micro
  have hop : op.ofRequest = true := (Bool.and_eq_true_iff.mp h.ahead.kind).1
  have hstep := microStep_withPollOf hop hm a
  rw [h.owned] at hstep
  exact ⟨m, more, q', _, rfl, hstep, rfl, hahead, rfl, h.bus, h.txLen⟩

/-- Running some of the steps at once: the disturbed run stays behind the undisturbed one, wherever it is stopped. -/
theorem Pursues.runOps {r : State} {base : List MicroOp} (k : Nat) :
    ∀ {ops mid : List MicroOp} {n : Nat} {q a : State}, Pursues r n (ops ++ mid) q a →
      a.poll.cont = mid ++ base →
      ∃ v m todo q', runOps k ops a = .next v ∧ m ≤ n ∧ Pursues r m todo q' v ∧
        v.poll = ⟨a.poll.phase, todo ++ base⟩ := by
  have hstop : ∀ {ops mid : List MicroOp} {n : Nat} {q a : State}, Pursues r n (ops ++ mid) q a →
      a.poll.cont = mid ++ base → Pursues r n (ops ++ mid) q (suspend ops a) ∧
        (suspend ops a).poll = ⟨a.poll.phase, (ops ++ mid) ++ base⟩ := fun h hc =>
    ⟨h.withPoll _, by simp [suspend, hc]⟩
  induction k with
  | zero =>
    intro ops mid n q a h hc
    obtain ⟨hp, hpoll⟩ := hstop h hc
    cases ops with
    | nil => exact ⟨_, n, _, q, runOps_nil 0 a, le_rfl, hp, hpoll⟩
    | cons op rest => exact ⟨_, n, _, q, rfl, le_rfl, hp, hpoll⟩
  | succ k ih =>
    intro ops mid n q a h hc
    obtain ⟨hp, hpoll⟩ := hstop h hc
    cases ops with
    | nil => exact ⟨_, n, _, q, runOps_nil _ a, le_rfl, hp, hpoll⟩
    | cons op rest =>
      cases hi : interruptDue a with
      | true => exact ⟨_, n, _, q, runOps_due hi, le_rfl, hp, hpoll⟩
      | false =>
        obtain ⟨m, more, q', a', rfl, hm, hpoll', h'⟩ := h.micro
        have hnext : Pursues r m ((more ++ rest) ++ mid) q' (Machine.tick a') := by
          rw [List.append_assoc]
          exact h'.tick
        obtain ⟨v, m', todo, q'', hrun, hle, hv, hvpoll⟩ := ih hnext (by rw [tick_poll, hpoll', hc])
        exact ⟨v, m', todo, q'', (runOps_go hi hm).trans hrun, hle.trans (Nat.le_succ m), hv,
          by rw [hvpoll, tick_poll, hpoll']⟩

/-! ### A step of POLL -/

/-- Outside the ISR, with no interrupt due, a step of a request that is no command is an atomic step. -/
theorem step_micro {a : State} {op : MicroOp} {rest : List MicroOp} (ha : a.irq.active = false)
    (hi : interruptDue a = false) (hc : a.poll.cont = op :: rest) (hop : op.ofRequest = true)
    (hcmd : ∀ w, op ≠ .i2cCmd w) : step a = pollMicro op rest { a with poll.cont := rest } := by
  have hn : nextAction a = pollAction a := by simp [nextAction, ha, hi]
  have hs : pollSteps a = op :: rest := by simp [pollSteps, hc]
  unfold step
  rw [hn, pollAction, hs]
  cases op
  case i2cCmd w => exact absurd rfl (hcmd w)
  case dispatch | calCmd => cases hop
  all_goals rfl

/-- A command issued to the sequencer's port runs its steps. -/
theorem step_i2cCmd {a : State} {w : BitVec 11} {rest ops : List MicroOp} (ha : a.irq.active = false)
    (hi : interruptDue a = false) (hc : a.poll.cont = .i2cCmd w :: rest) (hops : i2cCmdOps w = some ops) :
    step a = runInstr ops { a with poll.cont := rest } := by
  have hn : nextAction a = pollAction a := by simp [nextAction, ha, hi]
  have hs : pollSteps a = .i2cCmd w :: rest := by simp [pollSteps, hc]
  obtain ⟨i, hd, hport, hi2c⟩ := decodeI2c_command w
  unfold step
  rw [hn, pollAction, hs]
  simp only [hd, afterRun, exec_eq_runInstr (show (encode i).1 ≠ .usb by simp [hport]), hi2c, hops]

/-- A step of POLL takes the disturbed run at least one step on. -/
theorem Pursues.step_poll {r q a : State} {n : Nat} {op : MicroOp} {todo base : List MicroOp}
    (h : Pursues r n (op :: todo) q a) (ha : a.irq.active = false) (hi : interruptDue a = false)
    (hc : a.poll.cont = op :: (todo ++ base)) :
    ∃ t m todo' q', step a = .next t ∧ m < n ∧ Pursues r m todo' q' t ∧ t.poll = ⟨a.poll.phase, todo' ++ base⟩ := by
  have hop : op.ofRequest = true := (Bool.and_eq_true_iff.mp h.ahead.kind).1
  have h0 : Pursues r n (op :: todo) q { a with poll.cont := todo ++ base } := h.withPoll _
  obtain ⟨m, more, q', a', rfl, hm, hpoll, hnext⟩ := h0.micro
  by_cases hcmd : ∃ w, op = .i2cCmd w
  · obtain ⟨w, rfl⟩ := hcmd
    obtain ⟨hops, rfl⟩ := issue_go hm
    obtain ⟨t, k, todo', q'', hrun, hle, ht, htpoll⟩ := hnext.runOps opFuel rfl
    exact ⟨t, k, todo', q'', (step_i2cCmd ha hi hc hops).trans hrun, Nat.lt_succ_of_le hle, ht, htpoll⟩
  · refine ⟨Machine.tick { a' with poll.cont := more ++ (todo ++ base) }, m, more ++ todo, q', ?_, Nat.lt_succ_self m,
      (hnext.withPoll _).tick, ?_⟩
    · rw [step_micro ha hi hc hop (not_exists.mp hcmd), pollMicro, hm]
    · rw [tick_poll, hpoll, List.append_assoc]

/-! ### The ISR returns -/

/-- What an active ISR has to do: its transaction and the return, or the return alone. -/
def bodyWork : Bool → List RxPacket → Nat
  | false, _ => 0
  | true, [] => 1
  | true, _ :: _ => 2

/-- What the ISR has to do before POLL goes on, the host not moving: a whole activation for a latched edge, and the rest
of the present one. -/
def edgeWork (s : State) : Nat := 3 * s.irq.pending.toNat + bodyWork s.irq.active s.irq.rx

/-- The same with the host's moves to come, each of which may latch an edge. -/
def isrWork (s : State) : Nat := 6 * s.env.host.length + edgeWork s

theorem bodyWork_nil_le (active : Bool) : bodyWork active [] ≤ 1 := by cases active <;> decide

theorem bodyWork_le (active : Bool) (rx : List RxPacket) : bodyWork active rx ≤ 2 := by
  cases active
  · exact Nat.zero_le 2
  · cases rx
    · exact Nat.le_succ 1
    · exact le_rfl

theorem edgeWork_le (s : State) : edgeWork s ≤ 5 := by
  have hbody := bodyWork_le s.irq.active s.irq.rx
  have hlatch := s.irq.pending.toNat_le
  unfold edgeWork
  omega

/-- A move of the host is worth more than what it may cause. -/
theorem isrWork_tick_lt {s v : State} (hbus : v.env.bus = []) (hhost : v.env.host = s.env.host)
    (h : edgeWork v < edgeWork s) : isrWork (tick v) < isrWork s := by
  cases hv : v.env.host with
  | nil =>
    rw [tick_quiet v hv hbus, isrWork, isrWork, hhost]
    omega
  | cons e rest =>
    have hrest : (tick v).env.host = rest := (tick_outside hbus).host.trans (by rw [hv]; rfl)
    have hle := edgeWork_le (tick v)
    rw [isrWork, isrWork, hrest, ← hhost, hv, List.length_cons]
    omega

theorem exec_packet_exists {i : Instr} (hp : (encode i).1 = .usb) (s : State) : ∃ t, exec i s = .next t := by
  cases i
  case outToken | inToken | sof | setupToken | data0 | data1 | ack | nak | stall | pre => exact ⟨_, rfl⟩
  all_goals cases hp

/-- The ISR never stops the machine (R121). -/
theorem step_isr_exists {s : State} (ha : s.irq.active = true) : ∃ t, step s = .next t := by
  have hn : nextAction s = isrAction s := by simp [nextAction, ha]
  unfold step
  rw [hn, isrAction]
  cases s.irq.rx with
  | nil => exact ⟨_, rfl⟩
  | cons p rest =>
    cases hp : p.received with
    | none => simp only [hp]; exact ⟨_, rfl⟩
    | some bytes =>
      simp only [hp]
      cases hd : decode .usb bytes with
      | error e => exact ⟨_, rfl⟩
      | ok i =>
        obtain ⟨u, hu⟩ := exec_packet_exists (decodeUsb_port hd) { s with irq.rx := rest }
        simp only [hu]
        exact ⟨_, rfl⟩

/-- With nothing left to receive the ISR returns (R323). -/
theorem step_isr_return {s : State} (ha : s.irq.active = true) (hr : s.irq.rx = []) :
    step s = .next (tick (interruptReturn s)) := by
  have hn : nextAction s = .isrReturn s := by simp [nextAction, ha, isrAction, hr]
  unfold step
  rw [hn]

theorem step_interrupt_due {s : State} (hi : interruptDue s = true) : step s = .next (tick (interruptEntry s)) := by
  have ha : s.irq.active = false := by simp only [interruptDue, Bool.and_eq_true, Bool.not_eq_true'] at hi; exact hi.2
  have hn : nextAction s = .interrupt s := by simp [nextAction, ha, hi]
  unfold step
  rw [hn]

/-- A step of the ISR, or into it, leaves less for it to do. -/
theorem step_isr_progress {s : State} (hisr : s.irq.active = true ∨ interruptDue s = true) :
    ∃ v, step s = .next (tick v) ∧ OutsideEffect s v ∧ edgeWork v < edgeWork s := by
  rcases hisr with ha | hi
  · cases hr : s.irq.rx with
    | nil =>
      refine ⟨_, step_isr_return ha hr, .withIrq s _, ?_⟩
      rw [edgeWork, edgeWork, ha, hr]
      exact Nat.lt_succ_self _
    | cons p rest =>
      obtain ⟨t, ht⟩ := step_isr_exists ha
      obtain ⟨v, rfl, hv, hpending, hrx⟩ := step_isr_effect ha ht
      refine ⟨v, ht, hv, ?_⟩
      rw [edgeWork, edgeWork, hpending, hrx, ha, hr]
      exact Nat.add_lt_add_left (Nat.lt_succ_of_le (bodyWork_nil_le _)) _
  · obtain ⟨hpending, ha⟩ : s.irq.pending = true ∧ s.irq.active = false := by
      simp only [interruptDue, Bool.and_eq_true, Bool.not_eq_true'] at hi
      exact ⟨hi.1.1, hi.2⟩
    refine ⟨_, step_interrupt_due hi, .interruptEntry s, ?_⟩
    have hentry : edgeWork (interruptEntry s) ≤ 2 := (Nat.zero_add _).trans_le (bodyWork_le true s.env.offer)
    have hdue : 3 ≤ edgeWork s := by rw [edgeWork, hpending]; exact Nat.le_add_right 3 _
    exact (Nat.lt_succ_of_le hentry).trans_le hdue

/-! ### The whole run -/

/-- From wherever it is stopped, the disturbed run comes to the end of the undisturbed one: a step of POLL takes it on,
and a step of the ISR leaves less for the ISR to do. -/
theorem Pursues.finishes {r q a : State} {n : Nat} {todo base : List MicroOp} (h : Pursues r n todo q a)
    (hc : a.poll.cont = todo ++ base) :
    ∃ k t m, steps k a = .next t ∧ Pursues r m [] r t ∧ t.poll = ⟨a.poll.phase, base⟩ ∧ t.irq.active = false := by
  by_cases hisr : a.irq.active = true ∨ interruptDue a = true
  · obtain ⟨v, hstep, hv, hwork⟩ := step_isr_progress hisr
    have hpoll : (Machine.tick v).poll = a.poll := (tick_poll v).trans hv.poll
    have hlt : isrWork (Machine.tick v) < isrWork a := isrWork_tick_lt (hv.bus.trans h.bus) hv.host hwork
    obtain ⟨k, t, m, hk, ht, htpoll, hta⟩ := (h.of_outside hv).tick.finishes (by rw [hpoll, hc])
    exact ⟨k + 1, t, m, by simp only [steps, hstep, hk], ht, by rw [htpoll, hpoll], hta⟩
  · obtain ⟨ha, hi⟩ : a.irq.active = false ∧ interruptDue a = false := by simpa using hisr
    cases todo with
    | nil =>
      obtain rfl := h.ahead.nil
      exact ⟨0, a, n, rfl, h, by rw [← List.nil_append base, ← hc], ha⟩
    | cons op todo =>
      obtain ⟨u, m, todo', q', hstep, hlt, hu, hpoll⟩ := h.step_poll ha hi hc
      obtain ⟨k, t, m', hk, ht, htpoll, hta⟩ := hu.finishes (by rw [hpoll])
      exact ⟨k + 1, t, m', by simp only [steps, hstep, hk], ht, by rw [htpoll, hpoll], hta⟩
termination_by (n, isrWork a)

/-- A request leaves `tx_len` alone. -/
theorem Undisturbed.txLen {n : Nat} {todo : List MicroOp} {q r : State} (h : Undisturbed n todo q r) :
    r.usb.txLen = q.usb.txLen := by
  induction n generalizing todo q with
  | zero =>
    cases todo with
    | nil => rw [h.nil]
    | cons op todo => obtain ⟨m, _, _, hm, -⟩ := h.micro; cases hm
  | succ n ih =>
    cases todo with
    | nil => rw [h.nil]
    | cons op todo =>
      have hop : op.ofRequest = true := (Bool.and_eq_true_iff.mp h.kind).1
      obtain ⟨m, more, q', hn, hm, hnext⟩ := h.micro
      cases hn
      exact (ih hnext).trans (microStep_txLen (by rintro k rfl; cases hop) hm)

/-- Settles O56: the request's steps are done one after the other as in the undisturbed run, whatever comes between
them. -/
theorem interruptedRequestCompletes : Obligations.InterruptedRequestCompletes := by
  intro s r i hreq ha hbus hscl hexec
  have hport : (encode i).1 = .request := eq_of_beq hreq
  obtain ⟨ops, hops, hsteps⟩ := instrOps_request hport
  have hrun : ∀ u : State, exec i u = runOps opFuel ops u := fun u => by
    rw [exec_eq_runInstr (by simp [hport]), hops]; rfl
  have hahead : Undisturbed opFuel ops (quietened s) r :=
    ⟨(hrun _).symm.trans hexec, hsteps.kind, hsteps.length, waitsReleased_mono hsteps.waits _, rfl, rfl, rfl, hscl⟩
  have hstart : Pursues r opFuel (ops ++ []) (quietened s) s := by
    rw [List.append_nil]
    exact ⟨hahead, rfl, hbus, .inl hahead.txLen.symm⟩
  obtain ⟨u, m, todo, q, hu, -, hpursues, hupoll⟩ := hstart.runOps (base := s.poll.cont) opFuel rfl
  obtain ⟨n, t, m', ht, hend, htpoll, hta⟩ := hpursues.finishes (base := s.poll.cont) (by rw [hupoll])
  have howned : t.withPollOf r = t := hend.owned
  refine ⟨u, t, n, (hrun s).trans hu, ht, by rw [htpoll, hupoll], hta, ?_⟩
  rw [← howned]
  exact ⟨rfl, rfl, rfl, rfl, rfl, rfl, rfl, rfl, rfl, rfl, rfl, hend.txLen⟩

end Sys2Proof.Machine


/-! A power cycle gives the power-on state (O60). -/

namespace Sys2Proof.Machine

/-- Settles O60: the power-on state is written out, and its half delay is half of DEFAULT_DELAY, at least 1 (R38, R350). -/
theorem powerCycleKeepsNv : Obligations.PowerCycleKeepsNv := by
  intro s
  have hhalf : (powerCycle s).bridge.halfDelay.toNat = max 1 (Config.defaultDelay.toNat / 2) := by
    simp only [powerCycle, State.powerOn]
    split
    · next h =>
      have hzero : Config.defaultDelay.toNat / 2 = 0 := by simpa using congrArg BitVec.toNat h
      rw [hzero]; rfl
    · next h =>
      have hpos : Config.defaultDelay.toNat / 2 ≠ 0 := fun h0 => h (BitVec.eq_of_toNat_eq (by simpa using h0))
      rw [BitVec.toNat_udiv, Nat.max_eq_right (Nat.one_le_iff_ne_zero.mpr hpos)]; rfl
  exact ⟨rfl, ⟨rfl, rfl, rfl, rfl⟩, ⟨rfl, rfl, rfl, rfl, rfl, rfl, rfl, rfl, rfl⟩,
    ⟨rfl, rfl, rfl, rfl, rfl, rfl, rfl, rfl, hhalf⟩, ⟨rfl, rfl, rfl, rfl⟩, ⟨rfl, rfl, rfl⟩, rfl⟩

end Sys2Proof.Machine

/-! The decoder and the encoder of the four vocabularies undo each other (O1, O2), and the words written out from the
spec's tables decode (O3). -/

namespace Sys2Proof

/-! ### The fields of a word, taken apart and put together -/

@[simp] theorem le16_lo8_hi8 (v : Half) : le16 (lo8 v) (hi8 v) = v :=
  (BitVec.extractLsb'_append_extractLsb'_eq_extractLsb' rfl).trans BitVec.extractLsb'_eq_self

@[simp] theorem lo8_le16 (b0 b1 : Byte) : lo8 (le16 b0 b1) = b0 := BitVec.extractLsb'_append_eq_right

@[simp] theorem hi8_le16 (b0 b1 : Byte) : hi8 (le16 b0 b1) = b1 := BitVec.extractLsb'_append_eq_left

/-- A field's number, by division. -/
theorem toNat_extractLsb' {n : Nat} (w : BitVec n) (start len : Nat) :
    (w.extractLsb' start len).toNat = w.toNat / 2 ^ start % 2 ^ len := by
  rw [BitVec.extractLsb'_toNat, Nat.shiftRight_eq_div_pow]

/-- The middle one of three fields of a word. -/
theorem extractLsb'_append_middle {l m n : Nat} (x : BitVec l) (y : BitVec m) (z : BitVec n) :
    (x ++ y ++ z).extractLsb' n m = y := by
  ext k hk
  simp [BitVec.getLsbD_append, hk]

/-- The first one of three fields of a word. -/
theorem extractLsb'_append_high {l m n : Nat} (x : BitVec l) (y : BitVec m) (z : BitVec n) :
    (x ++ y ++ z).extractLsb' (m + n) l = x := by
  ext k hk
  simp [BitVec.getLsbD_append, show ¬ m + n + k < n by omega, show ¬ m + n + k - n < m by omega,
    show m + n + k - n - m = k by omega, BitVec.getLsbD_eq_getElem hk]

/-- Three fields that follow one another make up their word. -/
theorem append_three_fields {l m n : Nat} (w : BitVec (l + m + n)) :
    w.extractLsb' (m + n) l ++ w.extractLsb' n m ++ w.extractLsb' 0 n = w := by
  have hlow : n = 0 + n := (Nat.zero_add n).symm
  rw [Nat.add_comm m n, BitVec.extractLsb'_append_extractLsb'_eq_extractLsb' rfl,
    BitVec.extractLsb'_append_extractLsb'_eq_extractLsb' hlow, BitVec.extractLsb'_eq_self]

/-- A bit as a field of one bit. -/
theorem ofBool_getLsbD {n : Nat} (w : BitVec n) (k : Nat) : BitVec.ofBool (w.getLsbD k) = w.extractLsb' k 1 := by
  ext j hj
  obtain rfl : j = 0 := by omega
  simp

/-- I2C_IO's bRequest: its fixed high bits and its two flags (R109). -/
theorem i2cIoCode_fields (b e : Bool) :
    (i2cIoCode b e).extractLsb' 2 6 = 1 ∧ (i2cIoCode b e).getLsbD 0 = b ∧ (i2cIoCode b e).getLsbD 1 = e := by
  cases b <;> cases e <;> decide

/-- The bRequest of I2C_IO is made of its two flags alone. -/
theorem i2cIoCode_getLsbD {req : Byte} (h : req.extractLsb' 2 6 = 1) :
    i2cIoCode (req.getLsbD 0) (req.getLsbD 1) = req := by
  rw [i2cIoCode, ofBool_getLsbD, ofBool_getLsbD, ← h]
  exact append_three_fields (l := 6) (m := 1) (n := 1) req

/-- The CRC16 of a data packet is its last two bytes, the payload what comes before them (R74, R102). -/
theorem splitData_eq_some_iff {bytes p : List Byte} {c : Half} :
    splitData bytes = some (p, c) ↔ bytes = p ++ [lo8 c, hi8 c] := by
  induction bytes using splitData.induct generalizing p with
  | case1 => simp [splitData]
  | case2 b => cases p <;> simp [splitData]
  | case3 lo hi =>
    have hcrc : le16 lo hi = c ↔ lo = lo8 c ∧ hi = hi8 c :=
      ⟨by rintro rfl; simp, by rintro ⟨rfl, rfl⟩; simp⟩
    rcases p with _ | ⟨a, _ | ⟨a', _⟩⟩ <;> simp [splitData, hcrc]
  | case4 b rest hone htwo ih =>
    rw [splitData.eq_4 b rest hone htwo]
    cases p with
    | nil => simpa using fun (_ : b = lo8 c) => htwo (hi8 c)
    | cons a q => simp [ih, Option.map_eq_some_iff, and_comm]

/-! ### Decoding what the encoder writes -/

theorem decodeToken_token (mk : BitVec 7 → BitVec 4 → BitVec 5 → Instr) (a : BitVec 7) (e : BitVec 4) (c : BitVec 5) :
    decodeToken mk [lo8 (c ++ e ++ a), hi8 (c ++ e ++ a)] = .ok (mk a e c) := by
  have haddr : (c ++ e ++ a).extractLsb' 0 7 = a := BitVec.extractLsb'_append_eq_right
  have hendp : (c ++ e ++ a).extractLsb' 7 4 = e := extractLsb'_append_middle c e a
  have hcrc : (c ++ e ++ a).extractLsb' 11 5 = c := extractLsb'_append_high c e a
  simp only [decodeToken, le16_lo8_hi8, haddr, hendp, hcrc]

theorem decodeSof_sof (f : BitVec 11) (c : BitVec 5) :
    decodeSof [lo8 (c ++ f), hi8 (c ++ f)] = .ok (.sof f c) := by
  have hframe : (c ++ f).extractLsb' 0 11 = f := BitVec.extractLsb'_append_eq_right
  have hcrc : (c ++ f).extractLsb' 11 5 = c := BitVec.extractLsb'_append_eq_left
  simp only [decodeSof, le16_lo8_hi8, hframe, hcrc]

theorem decodeData_data (mk : List Byte → Half → Instr) {p : List Byte} (c : Half) (h : payloadFits p = true) :
    decodeData mk (p ++ [lo8 c, hi8 c]) = .ok (mk p c) := by
  rw [decodeData, splitData_eq_some_iff.mpr rfl]
  exact if_pos h

/-- A SETUP payload decodes by its type and bRequest, its other fields as they were (R107, R200). -/
theorem decodeRequest_setupBytes (type : BitVec 2) (req : Byte) (r : Setup) :
    decodeRequest (setupBytes type req r) =
      .ok (if type = 0 then decodeStandard req r
        else if type = 1 then decodeClass req r
        else if type = 2 then decodeVendor req r
        else .reservedType req r) := by
  have htype : (BitVec.ofBool r.dir ++ type ++ r.recipient).extractLsb' 5 2 = type :=
    extractLsb'_append_middle (BitVec.ofBool r.dir) type r.recipient
  have hrecipient : (BitVec.ofBool r.dir ++ type ++ r.recipient).extractLsb' 0 5 = r.recipient :=
    BitVec.extractLsb'_append_eq_right
  have hdir : (BitVec.ofBool r.dir ++ type ++ r.recipient).getLsbD 7 = r.dir :=
    BitVec.ofBool_eq_iff_eq.mp ((ofBool_getLsbD _ 7).trans (extractLsb'_append_high _ type r.recipient))
  simp only [setupBytes, decodeRequest, le16_lo8_hi8, htype, hrecipient, hdir]

theorem decodeStandard_unnamed {req : Byte} (r : Setup) (h : unnamedStandardCode req = true) :
    decodeStandard req r = .stdOther req r := by
  simp only [unnamedStandardCode, namedStandardCodes, List.contains_cons, List.contains_nil, Bool.not_eq_true',
    Bool.or_eq_false_iff, beq_eq_false_iff_ne] at h
  obtain ⟨h0, h1, h3, h5, h6, h7, h8, h9, hA, hB, hC, -⟩ := h
  simp only [decodeStandard, h0, h1, h3, h5, h6, h7, h8, h9, hA, hB, hC, if_false]

/-- A bRequest from 8 on has no command of its own (R109, R124). -/
theorem unknownVendorCode_ne {req : Byte} (h : unknownVendorCode req = true) :
    req.extractLsb' 2 6 ≠ 1 ∧ req ≠ 0 ∧ req ≠ 1 ∧ req ≠ 2 ∧ req ≠ 3 := by
  have h8 : 8 ≤ req.toNat := of_decide_eq_true h
  refine ⟨fun hio => ?_, ?_, ?_, ?_, ?_⟩
  · have hdiv : req.toNat / 2 ^ 2 % 2 ^ 6 = 1 :=
      (toNat_extractLsb' req 2 6).symm.trans (congrArg BitVec.toNat hio)
    have hreq : req.toNat < 2 ^ 8 := req.isLt
    omega
  all_goals rintro rfl; exact absurd h8 (by decide)

theorem decodeVendor_unknown {req : Byte} (r : Setup) (h : unknownVendorCode req = true) :
    decodeVendor req r = .vendorUnknown req r := by
  obtain ⟨hio, h0, h1, h2, h3⟩ := unknownVendorCode_ne h
  simp only [decodeVendor, hio, h0, h1, h2, h3, if_false]

theorem decodeClass_unknown {req : Byte} (r : Setup) (h : unknownVendorCode req = true) :
    decodeClass req r = .classUnknown req r := by
  obtain ⟨hio, h0, h1, h2, h3⟩ := unknownVendorCode_ne h
  simp only [decodeClass, hio, h0, h1, h2, h3, if_false]

theorem decodeVendor_i2cIo (b e : Bool) (r : Setup) : decodeVendor (i2cIoCode b e) r = .vendorI2cIo b e r := by
  obtain ⟨hio, hb, he⟩ := i2cIoCode_fields b e
  simp only [decodeVendor, hio, hb, he, if_true]

theorem decodeClass_i2cIo (b e : Bool) (r : Setup) : decodeClass (i2cIoCode b e) r = .classI2cIo b e r := by
  obtain ⟨hio, hb, he⟩ := i2cIoCode_fields b e
  simp only [decodeClass, hio, hb, he, if_true]

/-- A sequencer command decodes by its op, with its data (R118). -/
theorem decodeI2c_i2cWord (op : BitVec 3) (d : Byte) :
    decodeI2c (i2cWordBytes (i2cWord op d)) = .ok (decodeI2cOp op d) := by
  have hwidth : (op.setWidth 8).extractLsb' 3 5 = 0 := by ext k hk; simp
  have hop : (op.setWidth 8).extractLsb' 0 3 = op := by ext k hk; simp [hk, show k < 8 by omega]
  simp only [i2cWordBytes, Machine.i2cWord_data, Machine.i2cWord_op, decodeI2c, hwidth, hop]
  rfl

/-- Settles O1: the fields of each format are read back one by one, and the codes of the instructions are distinct. -/
theorem decodeOfEncode : Obligations.DecodeOfEncode := by
  intro i hwf
  cases i
  case outToken a e c => exact decodeToken_token .outToken a e c
  case inToken a e c => exact decodeToken_token .inToken a e c
  case setupToken a e c => exact decodeToken_token .setupToken a e c
  case sof f c => exact decodeSof_sof f c
  case data0 p c => exact decodeData_data .data0 c hwf
  case data1 p c => exact decodeData_data .data1 c hwf
  case stdOther req r => exact (decodeRequest_setupBytes 0 req r).trans (congrArg _ (decodeStandard_unnamed r hwf))
  case vendorUnknown req r => exact (decodeRequest_setupBytes 2 req r).trans (congrArg _ (decodeVendor_unknown r hwf))
  case classUnknown req r => exact (decodeRequest_setupBytes 1 req r).trans (congrArg _ (decodeClass_unknown r hwf))
  case vendorI2cIo b e r => exact (decodeRequest_setupBytes 2 _ r).trans (congrArg _ (decodeVendor_i2cIo b e r))
  case classI2cIo b e r => exact (decodeRequest_setupBytes 1 _ r).trans (congrArg _ (decodeClass_i2cIo b e r))
  case ack | nak | stall | pre => rfl
  case calReserved0 | calRun | calLoad | calReserved3 => rfl
  case i2cReserved0 | i2cStart | i2cRstart | i2cStop | i2cWrite | i2cReadAck | i2cReadNak | i2cReserved7 =>
    exact decodeI2c_i2cWord _ _
  all_goals exact decodeRequest_setupBytes _ _ _

/-! ### Encoding what the decoder reads -/

theorem encode_of_decodeToken {mk : BitVec 7 → BitVec 4 → BitVec 5 → Instr} {pid : Byte} {bytes : List Byte} {i : Instr}
    (hmk : ∀ a e c, encode (mk a e c) = (.usb, tokenBytes pid a e c)) (h : decodeToken mk bytes = .ok i) :
    encode i = (.usb, pid :: bytes) := by
  unfold decodeToken at h
  split at h <;> cases h
  next b1 b2 =>
    have hfields := append_three_fields (l := 5) (m := 4) (n := 7) (le16 b1 b2)
    rw [hmk, tokenBytes, hfields, lo8_le16, hi8_le16]

theorem encode_of_decodeSof {bytes : List Byte} {i : Instr} (h : decodeSof bytes = .ok i) :
    encode i = (.usb, 0xA5 :: bytes) := by
  unfold decodeSof at h
  split at h <;> cases h
  next b1 b2 =>
    have hfields : (le16 b1 b2).extractLsb' 11 5 ++ (le16 b1 b2).extractLsb' 0 11 = le16 b1 b2 :=
      (BitVec.extractLsb'_append_extractLsb'_eq_extractLsb' rfl).trans BitVec.extractLsb'_eq_self
    rw [encode, sofBytes, hfields, lo8_le16, hi8_le16]

theorem encode_of_decodeData {mk : List Byte → Half → Instr} {pid : Byte} {bytes : List Byte} {i : Instr}
    (hmk : ∀ p c, encode (mk p c) = (.usb, dataBytes pid p c)) (h : decodeData mk bytes = .ok i) :
    encode i = (.usb, pid :: bytes) := by
  unfold decodeData at h
  split at h
  · next p c hsplit =>
    split at h <;> cases h
    rw [hmk, dataBytes, splitData_eq_some_iff.mp hsplit, List.cons_append]
  · cases h

theorem encode_of_decodeHandshake {j i : Instr} {pid : Byte} {bytes : List Byte} (hj : encode j = (.usb, [pid]))
    (h : decodeHandshake j bytes = .ok i) : encode i = (.usb, pid :: bytes) := by
  unfold decodeHandshake at h
  split at h <;> cases h
  exact hj

/-- As `Machine.decoded_ite`, with the test at hand where it holds. -/
theorem decoded_if {c : Prop} [Decidable c] {a b : Except DecodeError Instr} {i : Instr} {P : Prop}
    (ha : c → a = .ok i → P) (hb : b = .ok i → P) : (if c then a else b) = .ok i → P := by
  split
  · exact ha ‹c›
  · exact hb

theorem encode_of_decodeUsb {bytes : List Byte} {i : Instr} (h : decodeUsb bytes = .ok i) :
    encode i = (.usb, bytes) := by
  cases bytes with
  | nil => cases h
  | cons pid rest =>
    revert h
    refine decoded_if (fun _ => ?_) nofun
    refine decoded_if (fun hpid => hpid ▸ encode_of_decodeToken fun _ _ _ => rfl) ?_
    refine decoded_if (fun hpid => hpid ▸ encode_of_decodeToken fun _ _ _ => rfl) ?_
    refine decoded_if (fun hpid => hpid ▸ encode_of_decodeSof) ?_
    refine decoded_if (fun hpid => hpid ▸ encode_of_decodeToken fun _ _ _ => rfl) ?_
    refine decoded_if (fun hpid => hpid ▸ encode_of_decodeData fun _ _ => rfl) ?_
    refine decoded_if (fun hpid => hpid ▸ encode_of_decodeData fun _ _ => rfl) ?_
    refine decoded_if (fun hpid => hpid ▸ encode_of_decodeHandshake rfl) ?_
    refine decoded_if (fun hpid => hpid ▸ encode_of_decodeHandshake rfl) ?_
    refine decoded_if (fun hpid => hpid ▸ encode_of_decodeHandshake rfl) ?_
    exact decoded_if (fun hpid => hpid ▸ encode_of_decodeHandshake rfl) nofun

theorem encode_if {c : Prop} [Decidable c] {a b : Instr} {x : Port × List Byte} (ha : c → encode a = x)
    (hb : ¬ c → encode b = x) : encode (if c then a else b) = x := by
  split
  · exact ha ‹c›
  · exact hb ‹¬ c›

theorem encode_decodeStandard (req : Byte) (r : Setup) :
    encode (decodeStandard req r) = (.request, setupBytes 0 req r) := by
  unfold decodeStandard
  repeat refine encode_if (fun hreq => hreq ▸ rfl) fun _ => ?_
  rfl

theorem encode_decodeVendor (req : Byte) (r : Setup) :
    encode (decodeVendor req r) = (.request, setupBytes 2 req r) := by
  unfold decodeVendor
  refine encode_if (fun hio => congrArg (fun q => (Port.request, setupBytes 2 q r)) (i2cIoCode_getLsbD hio)) fun _ => ?_
  repeat refine encode_if (fun hreq => hreq ▸ rfl) fun _ => ?_
  rfl

theorem encode_decodeClass (req : Byte) (r : Setup) :
    encode (decodeClass req r) = (.request, setupBytes 1 req r) := by
  unfold decodeClass
  refine encode_if (fun hio => congrArg (fun q => (Port.request, setupBytes 1 q r)) (i2cIoCode_getLsbD hio)) fun _ => ?_
  repeat refine encode_if (fun hreq => hreq ▸ rfl) fun _ => ?_
  rfl

theorem encode_of_decodeRequest {bytes : List Byte} {i : Instr} (h : decodeRequest bytes = .ok i) :
    encode i = (.request, bytes) := by
  unfold decodeRequest at h
  split at h <;> cases h
  next rt req v0 v1 i0 i1 l0 l1 =>
    have hrt : BitVec.ofBool (rt.getLsbD 7) ++ rt.extractLsb' 5 2 ++ rt.extractLsb' 0 5 = rt := by
      rw [ofBool_getLsbD]
      exact append_three_fields (l := 1) (m := 2) (n := 5) rt
    have hbytes : [rt, req, v0, v1, i0, i1, l0, l1] = setupBytes (rt.extractLsb' 5 2) req
        ⟨rt.getLsbD 7, rt.extractLsb' 0 5, le16 v0 v1, le16 i0 i1, le16 l0 l1⟩ := by
      simp only [setupBytes, hrt, lo8_le16, hi8_le16]
    rw [hbytes]
    refine encode_if (fun htype => htype ▸ encode_decodeStandard _ _) fun _ => ?_
    refine encode_if (fun htype => htype ▸ encode_decodeClass _ _) fun _ => ?_
    refine encode_if (fun htype => htype ▸ encode_decodeVendor _ _) fun _ => ?_
    have htype : rt.extractLsb' 5 2 = 3 := by bv_omega
    rw [htype]
    rfl

theorem encode_decodeI2cOp (op : BitVec 3) (d : Byte) :
    encode (decodeI2cOp op d) = (.i2c, i2cWordBytes (i2cWord op d)) := by
  unfold decodeI2cOp
  repeat refine encode_if (fun hop => hop ▸ rfl) fun _ => ?_
  have hop : op = 7 := by bv_omega
  rw [hop]
  rfl

theorem encode_of_decodeI2c {bytes : List Byte} {i : Instr} (h : decodeI2c bytes = .ok i) :
    encode i = (.i2c, bytes) := by
  unfold decodeI2c at h
  split at h
  · next b0 b1 =>
    split at h <;> cases h
    next hwidth =>
      have hop : (b1.extractLsb' 0 3).setWidth 8 = b1 := by
        have hhigh : b1.toNat / 2 ^ 3 % 2 ^ 5 = 0 :=
          (toNat_extractLsb' b1 3 5).symm.trans (congrArg BitVec.toNat hwidth)
        have hb1 : b1.toNat < 2 ^ 8 := b1.isLt
        apply BitVec.eq_of_toNat_eq
        rw [BitVec.toNat_setWidth, toNat_extractLsb']
        omega
      rw [encode_decodeI2cOp, i2cWordBytes, Machine.i2cWord_data, Machine.i2cWord_op, hop]
  · cases h

theorem encode_of_decodeCal {bytes : List Byte} {i : Instr} (h : decodeCal bytes = .ok i) :
    encode i = (.cal, bytes) := by
  unfold decodeCal at h
  split at h
  · next b =>
    revert h
    repeat refine decoded_if (fun hb h => by cases h; exact hb ▸ rfl) ?_
    exact nofun
  · cases h

/-- Settles O2: at each port the decoder's tests fix every bit that the operands leave open. -/
theorem encodeOfDecode : Obligations.EncodeOfDecode := by
  intro p bytes i h
  cases p with
  | usb => exact encode_of_decodeUsb h
  | request => exact encode_of_decodeRequest h
  | i2c => exact encode_of_decodeI2c h
  | cal => exact encode_of_decodeCal h

/-- Settles O3: the decoder evaluates on the spec's words. -/
theorem specWordsDecode : Obligations.SpecWordsDecode :=
  ⟨rfl, rfl, rfl, rfl, rfl, rfl, rfl, rfl, rfl⟩

end Sys2Proof

/-! The receiver undoes each layer of the transmitter: NRZI, SYNC, bit stuffing and the order of a byte's bits (O7). -/

namespace Sys2Proof.Machine

/-! ### NRZI (R101) -/

theorem nrziNext_ne_se0 {prev : LineState} (h : prev ≠ .se0) (bit : Bool) : nrziNext prev bit ≠ .se0 := by
  cases prev with
  | j | k => cases bit <;> decide
  | se0 => exact absurd rfl h

theorem nrziNext_beq {prev : LineState} (h : prev ≠ .se0) (bit : Bool) : (nrziNext prev bit == prev) = bit := by
  cases prev with
  | j | k => cases bit <;> rfl
  | se0 => exact absurd rfl h

/-- What is NRZI-encoded from a differential state decodes to its bits, up to EOP. -/
theorem nrziDecode_encode (bits : List Bool) {prev : LineState} (h : prev ≠ .se0) (eop : List LineState) :
    nrziDecode prev (nrziEncode prev bits ++ .se0 :: eop) = bits := by
  induction bits generalizing prev with
  | nil => simp [nrziEncode, nrziDecode]
  | cons b rest ih =>
    have hnext := nrziNext_ne_se0 h b
    rw [nrziEncode, List.cons_append, nrziDecode, nrziNext_beq h, ih hnext]
    exact hnext

/-! ### SYNC and bit stuffing (R101, R141) -/

theorem afterSync_syncBits (bits : List Bool) (wait : Nat) : afterSync (syncBits ++ bits) wait = some bits := by
  simp [syncBits, afterSync]

/-- The receiver drops the 0 bits that the sender stuffs; both count the same 1 bits, at most five of them before a bit
that is no stuffed one. -/
theorem unstuffBits_stuffBits (bits : List Bool) {ones : Nat} (h : ones ≤ 5) :
    unstuffBits ones (stuffBits ones bits) = some bits := by
  induction bits generalizing ones with
  | nil => rfl
  | cons b rest ih =>
    have hsix : ones ≠ 6 := by omega
    cases b with
    | false => simp [stuffBits, unstuffBits, hsix, ih (Nat.zero_le 5)]
    | true =>
      by_cases hfive : ones = 5
      · simp [stuffBits, unstuffBits, hfive, ih (Nat.zero_le 5)]
      · simp [stuffBits, unstuffBits, hfive, hsix, ih (show ones + 1 ≤ 5 by omega)]

/-! ### The bits of a byte (R73) -/

theorem bitsByte_getLsbD (bits : List Bool) {k : Nat} (hk : k < 8) : (bitsByte bits).getLsbD k = bits.getD k false := by
  induction bits generalizing k with
  | nil => simp [bitsByte]
  | cons b rest ih =>
    cases k with
    | zero => simp [bitsByte]
    | succ k => simpa [bitsByte, hk, Nat.lt_of_succ_lt hk] using ih (Nat.lt_of_succ_lt hk)

theorem bitsByte_byteBits (b : Byte) : bitsByte (byteBits b) = b := by
  ext k hk
  rw [← BitVec.getLsbD_eq_getElem, bitsByte_getLsbD _ hk]
  simp [byteBits, hk]

theorem bitsBytes_packetBits (bytes : List Byte) : bitsBytes (packetBits bytes) = some bytes := by
  induction bytes with
  | nil => rfl
  | cons b rest ih =>
    have hbyte : bitsBytes (packetBits (b :: rest)) =
        (bitsBytes (packetBits rest)).map (bitsByte (byteBits b) :: ·) := rfl
    rw [hbyte, ih, bitsByte_byteBits, Option.map_some]

/-- Settles O7: the receiver takes the layers off in turn, and the packet's length is within its limit. -/
theorem wireRoundTrip : Obligations.WireRoundTrip := by
  intro bytes h
  have hnrzi : nrziDecode .j (transmitWire bytes) = syncBits ++ stuffBits 1 (packetBits bytes) :=
    nrziDecode_encode _ (by decide) _
  simp [receiveWire, hnrzi, afterSync_syncBits, unstuffBits_stuffBits, bitsBytes_packetBits, maxPacketBytes, h]

end Sys2Proof.Machine

/-! A flipped bit always shows in the CRC16 (O6): the register's map is injective in what it held before a byte, and in
the byte. -/

namespace Sys2Proof.Machine

/-- The bit that leaves the CRC16's register is the bit that comes in at its top. -/
theorem crc16Shift_top (c : Half) : (crc16Shift c).getLsbD 15 = c.getLsbD 0 := by
  unfold crc16Shift
  split <;> simp_all

/-- A shift of the CRC16 loses no bit (R106). -/
theorem crc16Shift_injective : Function.Injective crc16Shift := by
  intro a b h
  have hlow : a.getLsbD 0 = b.getLsbD 0 := by rw [← crc16Shift_top a, h, crc16Shift_top]
  have hrest : a >>> 1 = b >>> 1 := by
    unfold crc16Shift at h
    rw [hlow] at h
    split at h
    · exact (BitVec.xor_left_inj _).mp h
    · exact h
  ext k hk
  rw [← BitVec.getLsbD_eq_getElem, ← BitVec.getLsbD_eq_getElem]
  cases k with
  | zero => exact hlow
  | succ k => simpa [Nat.add_comm] using congrArg (·.getLsbD k) hrest

theorem iterate_injective {α : Type} {f : α → α} (hf : Function.Injective f) (n : Nat) :
    Function.Injective (iterate f n) := by
  induction n with
  | zero => exact fun _ _ h => h
  | succ n ih => exact fun _ _ h => hf (ih h)

theorem crc16Byte_injective_register (d : Byte) : Function.Injective (crc16Byte · d) := fun _ _ h =>
  (BitVec.xor_left_inj _).mp (iterate_injective crc16Shift_injective 8 h)

theorem crc16Byte_injective_byte (c : Half) : Function.Injective (crc16Byte c) := by
  intro d e h
  have hwide : d.setWidth 16 = e.setWidth 16 :=
    (BitVec.xor_right_inj c).mp (iterate_injective crc16Shift_injective 8 h)
  simpa using congrArg (BitVec.setWidth 8) hwide

/-- Two registers that differ still differ after the same bytes. -/
theorem foldl_crc16Byte_injective (bytes : List Byte) : Function.Injective (bytes.foldl crc16Byte) := by
  induction bytes with
  | nil => exact fun _ _ h => h
  | cons d rest ih => exact fun _ _ h => crc16Byte_injective_register d (ih h)

/-- Of two payloads that differ in one byte the CRC16s differ. -/
theorem crc16_set_ne {p : List Byte} {j : Nat} (hj : j < p.length) {d : Byte} (hd : d ≠ p[j]) :
    crc16 (p.set j d) ≠ crc16 p := by
  intro h
  have hfold := (BitVec.xor_left_inj _).mp h
  rw [List.set_eq_take_append_cons_drop, if_pos hj] at hfold
  conv at hfold => rhs; rw [← List.take_append_drop j p, List.drop_eq_getElem_cons hj]
  rw [List.foldl_append, List.foldl_append, List.foldl_cons, List.foldl_cons] at hfold
  exact hd (crc16Byte_injective_byte _ (foldl_crc16Byte_injective _ hfold))

/-- Settles O6: the flipped bit changes its byte, and no later shift of the register loses the difference. -/
theorem crcCatchesBitFlip : Obligations.CrcCatchesBitFlip := by
  intro p j i hj hi
  refine crc16_set_ne hj fun h => ?_
  rw [List.getD_eq_getElem _ _ hj] at h
  have hbit := congrArg (·.getLsbD i) h
  simp [hi] at hbit

end Sys2Proof.Machine

/-! What a step does at each of the four ports (O4), which first packets the ISR drops (O5), that no step refuses (O58),
and that the only fault is the undefined repeated start (O57). -/

namespace Sys2Proof.Machine

/-! ### The instruction read at a port (R131) -/

/-- The ISR with a packet before it: the instruction it decodes to runs and the environment moves, or the packet is
dropped (R143). -/
theorem step_packet {s : State} {p : RxPacket} {rest : List RxPacket} {bytes : List Byte} (ha : s.irq.active = true)
    (hr : s.irq.rx = p :: rest) (hp : p.received = some bytes) :
    step s = match decodeUsb bytes with
      | .ok i => afterRun .usb (exec i { s with irq.rx := rest })
      | .error _ => .next (tick (isrDone s)) := by
  have hn : nextAction s = .run .usb bytes { s with irq.rx := rest } := by simp [nextAction, ha, isrAction, hr, hp]
  unfold step
  rw [hn]
  rfl

/-- A packet that is missing or garbled has no effect (R140, R143). -/
theorem step_noPacket {s : State} {p : RxPacket} {rest : List RxPacket} (ha : s.irq.active = true)
    (hr : s.irq.rx = p :: rest) (hp : p.received = none) : step s = .next (tick (isrDone s)) := by
  have hn : nextAction s = .isrIgnore s := by simp [nextAction, ha, isrAction, hr, hp]
  unfold step
  rw [hn]

/-- POLL with a SETUP payload to dispatch: the request it decodes to runs, or the payload is dropped. -/
theorem step_dispatch {s : State} {payload : List Byte} {rest : List MicroOp} (ha : s.irq.active = false)
    (hi : interruptDue s = false) (hs : pollSteps s = .dispatch payload :: rest) :
    step s = match decode .request payload with
      | .ok i => exec i { s with poll.cont := rest }
      | .error _ => .next (tick { s with poll.cont := rest }) := by
  have hn : nextAction s = .run .request payload { s with poll.cont := rest } := by
    simp [nextAction, ha, hi, pollAction, hs]
  unfold step
  rw [hn]
  rfl

/-- POLL with a command to issue to the sequencer: the instruction it decodes to runs. -/
theorem step_i2cCommand {s : State} {w : BitVec 11} {rest : List MicroOp} {i : Instr} (ha : s.irq.active = false)
    (hi : interruptDue s = false) (hs : pollSteps s = .i2cCmd w :: rest)
    (hd : decode .i2c (i2cWordBytes w) = .ok i) : step s = exec i { s with poll.cont := rest } := by
  have hn : nextAction s = .run .i2c (i2cWordBytes w) { s with poll.cont := rest } := by
    simp [nextAction, ha, hi, pollAction, hs]
  unfold step
  rw [hn]
  simp only [hd]
  rfl

/-- POLL with a command to issue to the calibrator: the instruction it decodes to runs. -/
theorem step_calCommand {s : State} {w : BitVec 2} {rest : List MicroOp} {i : Instr} (ha : s.irq.active = false)
    (hi : interruptDue s = false) (hs : pollSteps s = .calCmd w :: rest)
    (hd : decode .cal (calWordBytes w) = .ok i) : step s = exec i { s with poll.cont := rest } := by
  have hn : nextAction s = .run .cal (calWordBytes w) { s with poll.cont := rest } := by
    simp [nextAction, ha, hi, pollAction, hs]
  unfold step
  rw [hn]
  simp only [hd]
  rfl

/-- Settles O4: the port's bytes are the next action's, and a packet's instruction always answers a next state. -/
theorem stepRunsDecodedInstruction : Obligations.StepRunsDecodedInstruction := by
  refine ⟨fun s p rest bytes i ha hr hp hd => ?_, fun s payload rest i ha hi hs hd => ?_,
    fun s w rest i ha hi hs hd => step_i2cCommand ha hi hs hd,
    fun s w rest i ha hi hs hd => step_calCommand ha hi hs hd⟩
  · obtain ⟨t, ht⟩ := exec_packet_exists (decodeUsb_port hd) { s with irq.rx := rest }
    have hrun : step s = afterRun .usb (exec i { s with irq.rx := rest }) := by
      rw [step_packet ha hr hp, show decodeUsb bytes = .ok i from hd]
    exact ⟨t, ht, hrun.trans (congrArg (afterRun .usb) ht)⟩
  · rw [step_dispatch ha hi hs, hd]

/-! ### First packets that the ISR drops (R121, R143, R149) -/

/-- What the decoder gives is no instruction, or one that has no effect in the ISR. -/
def Ignored (out : Except DecodeError Instr) : Prop := ∀ i, out = .ok i → ∀ s, exec i s = .next (isrDone s)

theorem step_ignored {s : State} {p : RxPacket} {rest : List RxPacket} {bytes : List Byte} (ha : s.irq.active = true)
    (hr : s.irq.rx = p :: rest) (hp : p.received = some bytes) (h : Ignored (decodeUsb bytes)) :
    step s = .next (tick (isrDone s)) := by
  rw [step_packet ha hr hp]
  cases hd : decodeUsb bytes with
  | error e => rfl
  | ok i => simp only [h i hd]; rfl

theorem Ignored.error (e : DecodeError) : Ignored (.error e) := nofun

theorem Ignored.ite {c : Prop} [Decidable c] {a b : Except DecodeError Instr} (ha : c → Ignored a) (hb : Ignored b) :
    Ignored (if c then a else b) := by
  split
  · exact ha ‹c›
  · exact hb

/-- A token of another length than 3 bytes does not decode (R144). -/
theorem Ignored.token {mk : BitVec 7 → BitVec 4 → BitVec 5 → Instr} {bytes : List Byte} (h : bytes.length ≠ 2) :
    Ignored (decodeToken mk bytes) := by
  unfold decodeToken
  split
  · exact absurd rfl h
  · exact .error _

theorem Ignored.sof (bytes : List Byte) : Ignored (decodeSof bytes) := by
  unfold decodeSof
  split
  · rintro i ⟨⟩ s; rfl
  · exact .error _

theorem Ignored.data {mk : List Byte → Half → Instr} (hmk : ∀ p c s, exec (mk p c) s = .next (isrDone s))
    (bytes : List Byte) : Ignored (decodeData mk bytes) := by
  unfold decodeData
  split
  · refine .ite (fun _ => ?_) (.error _)
    rintro i ⟨⟩ s
    exact hmk _ _ s
  · exact .error _

theorem Ignored.handshake {j : Instr} (hj : ∀ s, exec j s = .next (isrDone s)) (bytes : List Byte) :
    Ignored (decodeHandshake j bytes) := by
  unfold decodeHandshake
  split
  · rintro i ⟨⟩ s; exact hj s
  · exact .error _

/-- Only a SETUP, OUT or IN token of 3 bytes has an effect as a first packet (R143, R149). -/
theorem decodeUsb_ignored {pid : Byte} {tl : List Byte}
    (h : pid = 0x2D ∨ pid = 0xE1 ∨ pid = 0x69 → tl.length ≠ 2) : Ignored (decodeUsb (pid :: tl)) := by
  refine .ite (fun _ => ?_) (.error _)
  refine .ite (fun hpid => .token (h (.inr (.inl hpid)))) ?_
  refine .ite (fun hpid => .token (h (.inr (.inr hpid)))) ?_
  refine .ite (fun _ => .sof tl) ?_
  refine .ite (fun hpid => .token (h (.inl hpid))) ?_
  refine .ite (fun _ => .data (fun _ _ _ => rfl) tl) ?_
  refine .ite (fun _ => .data (fun _ _ _ => rfl) tl) ?_
  refine .ite (fun _ => .handshake (fun _ => rfl) tl) ?_
  refine .ite (fun _ => .handshake (fun _ => rfl) tl) ?_
  refine .ite (fun _ => .handshake (fun _ => rfl) tl) ?_
  exact .ite (fun _ => .handshake (fun _ => rfl) tl) (.error _)

/-- A PID byte that fails its check nibble does not decode (R104). -/
theorem decodeUsb_ignored_of_invalid {pid : Byte} {tl : List Byte}
    (h : pid.extractLsb' 4 4 ≠ ~~~(pid.extractLsb' 0 4)) : Ignored (decodeUsb (pid :: tl)) :=
  .ite (fun hvalid => absurd (eq_of_beq hvalid) h) (.error _)

/-- Settles O5: none of these packets decodes to an instruction with an effect. -/
theorem badFirstPacketDropped : Obligations.BadFirstPacketDropped := by
  intro s p rest ha hr hbad
  rcases hbad with hp | hp | ⟨pid, tl, hp, hpid⟩ | ⟨pid, tl, hp, -, hlen⟩ | ⟨pid, tl, hp, hsetup, hout, hin⟩
  · exact step_noPacket ha hr hp
  · exact step_ignored ha hr hp (.error _)
  · exact step_ignored ha hr hp (decodeUsb_ignored_of_invalid hpid)
  · exact step_ignored ha hr hp (decodeUsb_ignored fun _ => hlen)
  · refine step_ignored ha hr hp (decodeUsb_ignored ?_)
    rintro (h | h | h)
    · exact absurd h hsetup
    · exact absurd h hout
    · exact absurd h hin

/-! ### Stopping (R121) -/

/-- How POLL's step goes: a payload that spells no request is dropped, an instruction that a port gives runs, which is
a reserved command only where the step's operand is, or the atomic step is taken. -/
theorem step_poll_outcome {s : State} {op : MicroOp} {rest : List MicroOp} (ha : s.irq.active = false)
    (hi : interruptDue s = false) (hs : pollSteps s = op :: rest) :
    (∃ t, step s = .next t) ∨
    (∃ i, (encode i).1 ≠ .usb ∧ (instrOps i = none → op.ok = false) ∧ step s = exec i { s with poll.cont := rest }) ∨
    step s = pollMicro op rest { s with poll.cont := rest } := by
  cases op
  case dispatch payload =>
    have hstep := step_dispatch ha hi hs
    cases hd : decode .request payload with
    | error e => exact .inl ⟨_, by rw [hstep, hd]⟩
    | ok i =>
      have hp : (encode i).1 = .request := decodeRequest_port hd
      obtain ⟨ops, hops, -⟩ := instrOps_request hp
      exact .inr (.inl ⟨i, by simp [hp], by simp [hops], by rw [hstep, hd]⟩)
  case i2cCmd w =>
    obtain ⟨i, hd, hp, hops⟩ := decodeI2c_command w
    exact .inr (.inl ⟨i, by simp [hp], by simp [hops, MicroOp.ok], step_i2cCommand ha hi hs hd⟩)
  case calCmd w =>
    obtain ⟨i, hd, hp, hops⟩ := decodeCal_command w
    exact .inr (.inl ⟨i, by simp [hp], by simp [hops, MicroOp.ok], step_calCommand ha hi hs hd⟩)
  all_goals
    refine .inr (.inr ?_)
    unfold step
    simp only [nextAction, ha, hi, pollAction, hs]
    rfl

theorem runOps_ne_refused (n : Nat) (ops : List MicroOp) (s : State) (r : Refusal) : runOps n ops s ≠ .refused r := by
  induction n generalizing ops s with
  | zero => cases ops <;> simp [runOps]
  | succ n ih =>
    cases ops with
    | nil => simp
    | cons op rest =>
      rw [runOps]
      split
      · nofun
      · split
        · exact ih _ _
        · nofun
        · nofun

theorem exec_poll_ne_refused {i : Instr} (hp : (encode i).1 ≠ .usb) (s : State) (r : Refusal) :
    exec i s ≠ .refused r := by
  rw [exec_eq_runInstr hp]
  split
  · exact runOps_ne_refused opFuel _ s r
  · nofun

theorem pollMicro_ne_refused (op : MicroOp) (rest : List MicroOp) (s : State) (r : Refusal) :
    pollMicro op rest s ≠ .refused r := by
  unfold pollMicro
  split <;> nofun

/-- Settles O58: the ISR always answers a next state, and POLL's atomic steps go on, hold or fault. -/
theorem noStepRefuses : Obligations.NoStepRefuses := by
  intro s r h
  cases ha : s.irq.active with
  | true =>
    obtain ⟨t, ht⟩ := step_isr_exists ha
    rw [ht] at h
    cases h
  | false =>
    cases hi : interruptDue s with
    | true =>
      rw [step_interrupt_due hi] at h
      cases h
    | false =>
      obtain ⟨op, rest, hs⟩ := pollSteps_eq_cons s
      rcases step_poll_outcome ha hi hs with ⟨t, ht⟩ | ⟨i, hp, -, hexec⟩ | hmicro
      · rw [ht] at h
        cases h
      · exact exec_poll_ne_refused hp _ r (hexec ▸ h)
      · exact pollMicro_ne_refused op rest _ r (hmicro ▸ h)

/-! ### Where a fault comes from (R331, R365) -/

/-- A step whose operand is in range faults only as a repeated start with SCL an input (R281). -/
theorem microStep_fault {op : MicroOp} {s : State} {f : Fault} (hop : op.ok = true) (h : microStep op s = .fault f) :
    op = .rstartCheck ∧ f = .i2cRstartUndefined ∧ s.pins.sclDir = .input := by
  cases op
  case rstartCheck =>
    simp only [microStep] at h
    cases hdir : s.pins.sclDir with
    | output => rw [hdir] at h; cases h
    | input => rw [hdir] at h; cases h; exact ⟨rfl, rfl, rfl⟩
  case i2cCmd w =>
    obtain ⟨ops, hops⟩ := Option.isSome_iff_exists.mp hop
    simp [microStep, hops, issue] at h
  case calCmd w =>
    obtain ⟨ops, hops⟩ := Option.isSome_iff_exists.mp hop
    simp [microStep, hops, issue] at h
  case waitScl | measureOpen | measureEnd => simp only [microStep] at h; split at h <;> cases h
  all_goals cases h

/-- An operation faults at one of its steps; what every step before it keeps holds there. -/
theorem runOps_fault {P : List MicroOp → State → Prop}
    (hgo : ∀ {op rest s more s'}, P (op :: rest) s → microStep op s = .go more s' → P (more ++ rest) (tick s'))
    {n : Nat} {ops : List MicroOp} {s : State} {f : Fault} (hp : P ops s) (h : runOps n ops s = .fault f) :
    ∃ op rest s', P (op :: rest) s' ∧ microStep op s' = .fault f := by
  induction n generalizing ops s with
  | zero => cases ops <;> simp [runOps] at h
  | succ n ih =>
    cases ops with
    | nil => simp at h
    | cons op rest =>
      rw [runOps] at h
      split at h
      · cases h
      · split at h
        · next more s' hm => exact ih (hgo hp hm) h
        · cases h
        · next g hm => cases h; exact ⟨op, rest, s, hp, hm⟩

/-- A step that is no repeated start and does not issue one. -/
def MicroOp.noRstart : MicroOp → Bool
  | .rstartCheck => false
  | .i2cCmd w => w.extractLsb' 8 3 != 2
  | _ => true

/-- No step is a repeated start, or issues one, but the first, before which at most I2C_IO's flag is cleared: SCL's
direction is then still what it was at the operation's beginning. -/
def rstartFirst : List MicroOp → Bool
  | [] => true
  | .clearWriteFail :: rest => rstartFirst rest
  | _ :: rest => rest.all MicroOp.noRstart

theorem rstartFirst_cons {op : MicroOp} {rest : List MicroOp} (h : rstartFirst (op :: rest) = true) :
    op = .clearWriteFail ∧ rstartFirst rest = true ∨ rest.all MicroOp.noRstart = true := by
  cases op
  case clearWriteFail => exact .inl ⟨rfl, h⟩
  all_goals exact .inr h

theorem rstartFirst_of_noRstart {ops : List MicroOp} (h : ops.all MicroOp.noRstart = true) :
    rstartFirst ops = true := by
  induction ops with
  | nil => rfl
  | cons op rest ih =>
    obtain ⟨-, hrest⟩ := Bool.and_eq_true_iff.mp h
    unfold rstartFirst
    split
    · rfl
    · next heq => cases heq; exact ih hrest
    · next heq => cases heq; exact hrest

theorem writeOps_noRstart (b : Byte) : (writeOps b).all MicroOp.noRstart = true := by
  have hbit : ∀ v, (writeBitOps v).all MicroOp.noRstart = true := by decide
  simp only [writeOps, msbFirst, List.flatMap_cons, List.flatMap_nil, List.all_append, hbit]
  rfl

theorem op_of_decodeI2cOp_rstart {op : BitVec 3} {d d' : Byte} (h : decodeI2cOp op d = .i2cRstart d') : op = 2 := by
  unfold decodeI2cOp at h
  split_ifs at h with h0 h1 h2
  exact h2

/-- Of the sequencer's commands only RSTART has a repeated start among its steps, as the first of them (R118, R281). -/
theorem i2cCmdOps_cases {w : BitVec 11} {ops : List MicroOp} (h : i2cCmdOps w = some ops) :
    w.extractLsb' 8 3 = 2 ∧ ops = rstartOps ∨ ops.all MicroOp.noRstart = true := by
  unfold i2cCmdOps at h
  split at h <;> cases h
  · exact .inr rfl
  · next hd => exact .inl ⟨op_of_decodeI2cOp_rstart hd, rfl⟩
  · exact .inr rfl
  · exact .inr (writeOps_noRstart _)
  · exact .inr rfl
  · exact .inr rfl

theorem calCmdOps_noRstart {w : BitVec 2} {ops : List MicroOp} (h : calCmdOps w = some ops) :
    ops.all MicroOp.noRstart = true := by
  unfold calCmdOps at h
  split_ifs at h <;> cases h <;> rfl

theorem i2cCmd_write_noRstart (b : Byte) : (MicroOp.i2cCmd (writeWord b)).noRstart = true := by
  simp [MicroOp.noRstart, writeWord]

theorem serveDescriptorOps_noRstart (d : Config.Descriptor) (wl : Half) :
    (serveDescriptorOps d wl).all MicroOp.noRstart = true := by
  cases d with
  | absent => rfl
  | inRom a n => rfl
  | inRam b =>
    refine all_append_of (List.all_eq_true.mpr fun op hop => ?_) rfl
    obtain ⟨j, hj, rfl⟩ := List.mem_mapIdx.mp hop
    rfl

theorem calNeighbourOps_noRstart (trial : Byte) : (calNeighbourOps trial).all MicroOp.noRstart = true := by
  simp [calNeighbourOps, measureOps, MicroOp.noRstart]

theorem refillOps_noRstart (s : State) : (refillOps s).all MicroOp.noRstart = true := by
  unfold refillOps
  split
  · rfl
  · exact all_append_of (all_append_of (by simp [MicroOp.noRstart]) rfl) rfl
  · exact all_append_of (all_append_of (by simp [MicroOp.noRstart]) rfl) rfl
  · rfl

theorem readCallbackOps_noRstart (s : State) (cap : Nat) : (readCallbackOps s cap).all MicroOp.noRstart = true :=
  all_ite_of (all_append_of (all_append_of (by simp [MicroOp.noRstart]) rfl) rfl)
    (all_append_of (by simp [MicroOp.noRstart]) rfl)

theorem writeLoopOps_noRstart (s : State) (k : Bool) (m j : Nat) :
    (writeLoopOps s k m j).all MicroOp.noRstart = true :=
  all_ite_of (Bool.and_eq_true_iff.mpr ⟨i2cCmd_write_noRstart _, rfl⟩) rfl

theorem readByteOps_noRstart (s : State) (i : Nat) : (readByteOps s i).all MicroOp.noRstart = true := by
  unfold readByteOps
  cases s.bridge.remaining == 1 <;> rfl

theorem s1TakeOps_noRstart (len : Byte) (k : Bool) (token : Byte) :
    (s1TakeOps len k token).all MicroOp.noRstart = true := by
  have hsetup : ∀ n, (s1SetupOps k n).all MicroOp.noRstart = true := fun _ => all_append_of rfl (all_ite_of rfl rfl)
  have hout : ∀ n, (s1OutOps k n).all MicroOp.noRstart = true := fun _ => all_ite_of rfl (all_ite_of rfl rfl)
  exact all_ite_of rfl (all_append_of (all_ite_of (hsetup _) (hout _)) rfl)

theorem getDescriptorOps_noRstart (s : State) (dtype dindex : Byte) (wi wl : Half) (digits : List Byte) :
    (getDescriptorOps s dtype dindex wi wl digits).all MicroOp.noRstart = true := by
  unfold getDescriptorOps
  split
  · rfl
  · rfl
  · exact serveDescriptorOps_noRstart _ _

/-- A step that is no repeated start leads to none, but by a command. -/
theorem microStep_noRstart {op : MicroOp} {s t : State} {more : List MicroOp} (hop : op.noRstart = true)
    (h : microStep op s = .go more t) : more.all MicroOp.noRstart = true := by
  cases op
  case dispatch => cases h
  case i2cCmd w =>
    have hw : w.extractLsb' 8 3 ≠ 2 := by simpa [MicroOp.noRstart] using hop
    exact (i2cCmdOps_cases (issue_go h).1).resolve_left fun hrstart => hw hrstart.1
  case calCmd w => exact calCmdOps_noRstart (issue_go h).1
  case s1Take => cases h; exact s1TakeOps_noRstart _ _ _
  case s2Take => cases h; exact all_append_of (all_ite_of (refillOps_noRstart _) rfl) rfl
  case readCallback => cases h; exact readCallbackOps_noRstart _ _
  case readByte => cases h; exact readByteOps_noRstart _ _
  case writeLoop => cases h; exact writeLoopOps_noRstart _ _ _ _
  case getDescriptor => cases h; exact getDescriptorOps_noRstart _ _ _ _ _ _
  case calNeighbours => cases h; exact calNeighbourOps_noRstart _
  case sampleDm => cases h; exact all_ite_of rfl (all_ite_of rfl rfl)
  case ioAddress => cases h; exact all_ite_of (all_append_of rfl (all_ite_of rfl rfl)) rfl
  case readSetup | writeCallback | stopIfDone | appendCrc | addressCommit | calibrateOnce | startTransfer | ioReply
      | calLoad | calCompare => cases h; exact all_ite_of rfl rfl
  case rstartCheck => cases hop
  case waitScl | measureOpen | measureEnd => simp only [microStep] at h; split at h <;> cases h; rfl
  all_goals cases h; rfl

/-- An instruction's steps have at most one repeated start, ahead of which nothing moves SCL (R240, R281). -/
theorem instrOps_rstartFirst {i : Instr} {ops : List MicroOp} (h : instrOps i = some ops) : rstartFirst ops = true := by
  have hio : ∀ b e r, rstartFirst (i2cIoOps b e r) = true := fun b e r => by
    simp [i2cIoOps, rstartFirst, writeWord, MicroOp.noRstart]
  cases i <;> cases h
  case i2cWrite d => exact rstartFirst_of_noRstart (writeOps_noRstart d)
  case vendorI2cIo b e r => exact hio b e r
  case classI2cIo b e r => exact hio b e r
  all_goals rfl

/-- The operands are in range, and SCL's direction is still d where a repeated start is to come. -/
structure RstartGuarded (d : Dir) (ops : List MicroOp) (s : State) : Prop where
  ok      : ops.all MicroOp.ok = true
  guarded : ops.all MicroOp.noRstart = true ∨ s.pins.sclDir = d ∧ rstartFirst ops = true

theorem RstartGuarded.micro {d : Dir} {op : MicroOp} {rest more : List MicroOp} {s s' : State}
    (h : RstartGuarded d (op :: rest) s) (hm : microStep op s = .go more s') :
    RstartGuarded d (more ++ rest) (tick s') := by
  obtain ⟨hop, hrest⟩ := Bool.and_eq_true_iff.mp h.ok
  refine ⟨all_ok_append (microStep_ok hop hm) hrest, ?_⟩
  rw [tick_pins]
  rcases h.guarded with hnone | ⟨hdir, hfirst⟩
  · obtain ⟨hop, hrest⟩ := Bool.and_eq_true_iff.mp hnone
    exact .inl (all_append_of (microStep_noRstart hop hm) hrest)
  · rcases rstartFirst_cons hfirst with ⟨rfl, hfirst⟩ | hrest
    · cases hm
      exact .inr ⟨hdir, hfirst⟩
    · cases op
      case rstartCheck =>
        simp only [microStep] at hm
        split at hm <;> cases hm
        exact .inl hrest
      case i2cCmd w =>
        obtain ⟨hops, rfl⟩ := issue_go hm
        rcases i2cCmdOps_cases hops with ⟨-, rfl⟩ | hmore
        · exact .inr ⟨hdir, hrest⟩
        · exact .inl (all_append_of hmore hrest)
      all_goals exact .inl (all_append_of (microStep_noRstart rfl hm) hrest)

theorem Inv.pollSteps_ok {s : State} (h : Inv s) : (pollSteps s).all MicroOp.ok = true := by
  unfold pollSteps
  exact all_ok_ite (phaseOps_ok _) h.pending

/-- An instruction that is no reserved command faults only as a repeated start, with SCL an input from its beginning. -/
theorem exec_poll_fault {i : Instr} {s : State} {f : Fault} (hp : (encode i).1 ≠ .usb) (hi : instrOps i ≠ none)
    (h : exec i s = .fault f) : f = .i2cRstartUndefined ∧ s.pins.sclDir = .input := by
  rw [exec_eq_runInstr hp] at h
  split at h
  · next ops hops =>
    obtain ⟨op, rest, s', hguard, hm⟩ := runOps_fault (P := RstartGuarded s.pins.sclDir) RstartGuarded.micro
      ⟨instrOps_ok hops, .inr ⟨rfl, instrOps_rstartFirst hops⟩⟩ h
    obtain ⟨hop, -⟩ := Bool.and_eq_true_iff.mp hguard.ok
    obtain ⟨rfl, rfl, hinput⟩ := microStep_fault hop hm
    rcases hguard.guarded with hnone | ⟨hdir, -⟩
    · cases hnone
    · exact ⟨rfl, hdir.symm.trans hinput⟩
  · next hnone => exact absurd hnone hi

/-- Settles O57: the ISR never stops, no reserved command is on its way to a port, and a repeated start is the first
of an operation's steps to touch SCL. -/
theorem onlyUndefinedStartFaults : Obligations.OnlyUndefinedStartFaults := by
  intro s f hinv h
  cases ha : s.irq.active with
  | true =>
    obtain ⟨t, ht⟩ := step_isr_exists ha
    rw [ht] at h
    cases h
  | false =>
    cases hi : interruptDue s with
    | true =>
      rw [step_interrupt_due hi] at h
      cases h
    | false =>
      obtain ⟨op, rest, hs⟩ := pollSteps_eq_cons s
      have hok := hinv.pollSteps_ok
      rw [hs] at hok
      obtain ⟨hop, -⟩ := Bool.and_eq_true_iff.mp hok
      rcases step_poll_outcome ha hi hs with ⟨t, ht⟩ | ⟨i, hp, hreserved, hexec⟩ | hmicro
      · rw [ht] at h
        cases h
      · refine exec_poll_fault (s := { s with poll.cont := rest }) hp (fun hnone => ?_) (hexec.symm.trans h)
        rw [hreserved hnone] at hop
        cases hop
      · rw [hmicro, pollMicro] at h
        split at h <;> cases h
        next hm =>
          obtain ⟨-, hf, hinput⟩ := microStep_fault hop hm
          exact ⟨hf, hinput⟩

end Sys2Proof.Machine

/-! What the ISR does with a transaction: the first packets it ignores (O21, O23), the data packet behind a SETUP or OUT
token (O17 to O20), the packet an IN is served (O22), and an edge with no packet behind it (O14). -/

namespace Sys2Proof.Machine

/-! ### Tokens (R143, R144, R149) -/

/-- A token of the block's own: its address, endpoint 0, and the CRC5 of both. -/
theorem tokenOk_own (s : State) : tokenOk s s.usb.address 0 (crc5 ((0 : BitVec 4) ++ s.usb.address)) = true := by
  simp [tokenOk]

theorem tokenOk_eq_false {s : State} {a : BitVec 7} {e : BitVec 4} {c : BitVec 5}
    (h : c ≠ crc5 (e ++ a) ∨ a ≠ s.usb.address ∨ e ≠ 0) : tokenOk s a e c = false := by
  simpa only [tokenOk, Bool.and_eq_false_iff, beq_eq_false_iff_ne, or_assoc] using h

/-- Settles O21: the token fails its filter, and the ISR's body is over. -/
theorem tokenFilter : Obligations.TokenFilter := by
  intro s a e c i hi hbad
  have hok := tokenOk_eq_false hbad
  rcases hi with rfl | rfl | rfl
  · simp only [exec, execSetupToken, hok]; rfl
  · simp only [exec, execOutToken, hok]; rfl
  · simp only [exec, execInToken, hok]; rfl

/-- Settles O23: none of these packets starts a transaction. -/
theorem ignoredFirstPackets : Obligations.IgnoredFirstPackets := by
  intro s f c p crc i hi
  simp only [List.mem_cons, List.not_mem_nil, or_false] at hi
  rcases hi with rfl | rfl | rfl | rfl | rfl | rfl | rfl <;> rfl

/-- A SETUP or OUT token of the block's own starts a transaction (R145). -/
theorem exec_setupOut_own (setup : Bool) (s : State) :
    exec (if setup then .setupToken s.usb.address 0 (crc5 ((0 : BitVec 4) ++ s.usb.address))
      else .outToken s.usb.address 0 (crc5 ((0 : BitVec 4) ++ s.usb.address))) s =
        .next (isrSetupOut (if setup then 0x2D else 0xE1) s) := by
  cases setup
  · exact congrArg Host.Outcome.next (if_pos (tokenOk_own s))
  · exact congrArg Host.Outcome.next (if_pos (tokenOk_own s))

/-! ### The data packet of a SETUP or OUT transaction (R145 to R147) -/

theorem isrSetupOut_nil {s : State} (token : Byte) (hr : s.irq.rx = []) :
    isrSetupOut token s = { s with irq.token := token, irq.rx := [] } := by
  simp [isrSetupOut, receivePacket, hr, isrDone]

theorem isrSetupOut_garbled {s : State} {p : RxPacket} {rest : List RxPacket} (token : Byte)
    (hr : s.irq.rx = p :: rest) (hp : p.received = none) :
    isrSetupOut token s = { s with irq.token := token, irq.rx := [] } := by
  simp [isrSetupOut, receivePacket, hr, hp, isrDone]

theorem isrSetupOut_received {s : State} {p : RxPacket} {rest : List RxPacket} {d : List Byte} (token : Byte)
    (hr : s.irq.rx = p :: rest) (hp : p.received = some d) :
    isrSetupOut token s = isrDone (isrData token d { s with irq.token := token, irq.rx := rest }) := by
  simp [isrSetupOut, receivePacket, hr, hp]

/-- The bytes of a packet that the buffer has room for are in it. -/
theorem captured_take (buf : Vector Byte Config.bufBytes) (d : List Byte) :
    (captured buf d).toList.take (min d.length 11) = d.take 11 := by
  apply List.ext_getElem
  · simp [captured, Nat.min_comm]
  · intro j hj _
    have hd : j < d.length := by simp at hj; omega
    simp [captured, hd]

/-! ### The tests on a data packet (R147) -/

@[simp] theorem dataBytes_length (pid : Byte) (payload : List Byte) (crc : Half) :
    (dataBytes pid payload crc).length = payload.length + 3 := by simp [dataBytes]

@[simp] theorem dataBytes_pid (pid : Byte) (payload : List Byte) (crc : Half) :
    (dataBytes pid payload crc).getD 0 0 = pid := rfl

theorem packetPayload_dataBytes (pid : Byte) (payload : List Byte) (crc : Half) :
    packetPayload (dataBytes pid payload crc) = payload := by
  simp [packetPayload, dataBytes]

theorem packetCrc_dataBytes (pid : Byte) (payload : List Byte) (crc : Half) :
    packetCrc (dataBytes pid payload crc) = crc := by
  have hlow : (dataBytes pid payload crc).getD (payload.length + 1) 0 = lo8 crc := by
    simp [dataBytes]
  have hhigh : (dataBytes pid payload crc).getD (payload.length + 2) 0 = hi8 crc := by
    simp [dataBytes]
  rw [packetCrc, dataBytes_length]
  exact (congrArg₂ le16 hlow hhigh).trans (le16_lo8_hi8 crc)

theorem dataOk_dataBytes {pid : Byte} {payload : List Byte} (hpid : pid = 0xC3 ∨ pid = 0x4B)
    (hlen : payload.length ≤ 8) : dataOk (dataBytes pid payload (crc16 payload)) = true := by
  simp only [dataOk, dataBytes_length, dataBytes_pid, packetCrc_dataBytes, packetPayload_dataBytes, Bool.and_eq_true,
    Bool.or_eq_true, decide_eq_true_eq, beq_iff_eq]
  exact ⟨⟨⟨Nat.le_add_left 3 _, Nat.add_le_add_right hlen 3⟩, hpid⟩, .inr trivial⟩

theorem dataOk_eq_false {d : List Byte}
    (h : d.length < 3 ∨ 11 < d.length ∨ (∃ b tl, d = b :: tl ∧ b ≠ 0xC3 ∧ b ≠ 0x4B) ∨
      (∃ pid payload crc, d = dataBytes pid payload crc ∧ crc ≠ crc16 payload)) : dataOk d = false := by
  by_contra hok
  obtain ⟨⟨⟨h3, h11⟩, hpid⟩, hcrc⟩ : ((3 ≤ d.length ∧ d.length ≤ 11) ∧ (d.getD 0 0 = 0xC3 ∨ d.getD 0 0 = 0x4B)) ∧
      packetCrc d = crc16 (packetPayload d) := by
    simpa only [dataOk, Bool.and_eq_true, Bool.or_eq_true, decide_eq_true_eq, beq_iff_eq, Bool.not_eq_false,
      Config.rxCrcCheck, Bool.not_true, Bool.false_eq_true, false_or] using hok
  rcases h with h | h | ⟨b, tl, rfl, h0, h1⟩ | ⟨pid, payload, crc, rfl, hne⟩
  · exact absurd h3 (Nat.not_le.mpr h)
  · exact absurd h11 (Nat.not_le.mpr h)
  · exact hpid.elim h0 h1
  · rw [packetCrc_dataBytes, packetPayload_dataBytes] at hcrc
    exact hne hcrc

/-! ### What a data packet comes to (R145 to R147, R321) -/

/-- `d` stored in the receive buffer that is not active (R25). -/
def inactiveAfter (s : State) (d : List Byte) : Vector Byte Config.bufBytes :=
  captured (if s.usb.rxSel then s.usb.rxBuf0 else s.usb.rxBuf1) d

/-- The bytes go into the buffer that is not active, and the other buffer stays (R25). -/
theorem captureData_eq (d : List Byte) (s : State) :
    captureData d s =
      { s with
        usb.rxBuf0 := if s.usb.rxSel then inactiveAfter s d else s.usb.rxBuf0
        usb.rxBuf1 := if s.usb.rxSel then s.usb.rxBuf1 else inactiveAfter s d } := by
  unfold captureData inactiveAfter
  split <;> rfl

/-- A packet that fails a test is captured and gets no handshake (R147). -/
theorem isrSetupOut_bad {s : State} {p : RxPacket} {rest : List RxPacket} {d : List Byte} (token : Byte)
    (hr : s.irq.rx = p :: rest) (hp : p.received = some d) (hd : dataOk d = false) :
    isrSetupOut token s =
      { s with
        usb.rxBuf0 := if s.usb.rxSel then inactiveAfter s d else s.usb.rxBuf0
        usb.rxBuf1 := if s.usb.rxSel then s.usb.rxBuf1 else inactiveAfter s d
        irq.token := token, irq.rx := [] } := by
  rw [isrSetupOut_received _ hr hp, isrData, hd, captureData_eq]
  rfl

/-- A good packet is captured and NAKed while POLL owns the one before. -/
theorem isrSetupOut_busy {s : State} {p : RxPacket} {rest : List RxPacket} {d : List Byte} (token : Byte)
    (hr : s.irq.rx = p :: rest) (hp : p.received = some d) (hd : dataOk d = true) (hlen : s.usb.rxLen ≠ 0) :
    isrSetupOut token s =
      { s with
        usb.rxBuf0 := if s.usb.rxSel then inactiveAfter s d else s.usb.rxBuf0
        usb.rxBuf1 := if s.usb.rxSel then s.usb.rxBuf1 else inactiveAfter s d
        irq.token := token, irq.rx := [], irq.sent := true
        wire := transmitted [0x5A] s.wire, env.sent := [0x5A] :: s.env.sent } := by
  have hbusy : (s.usb.rxLen != 0) = true := bne_iff_ne.mpr hlen
  rw [isrSetupOut_received _ hr hp, isrData, hd, captureData_eq]
  simp only [hbusy, sendPacket_eq]
  rfl

/-- A good packet that RX_DUP_FILTER drops is captured and acknowledged. -/
theorem isrSetupOut_dropped {s : State} {p : RxPacket} {rest : List RxPacket} {d : List Byte} {token : Byte}
    (hr : s.irq.rx = p :: rest) (hp : p.received = some d) (hd : dataOk d = true) (hlen : s.usb.rxLen = 0)
    (hdup : dupDrop s token d = true) :
    isrSetupOut token s =
      { s with
        usb.rxBuf0 := if s.usb.rxSel then inactiveAfter s d else s.usb.rxBuf0
        usb.rxBuf1 := if s.usb.rxSel then s.usb.rxBuf1 else inactiveAfter s d
        irq.token := token, irq.rx := [], irq.sent := true
        wire := transmitted [0xD2] s.wire, env.sent := [0xD2] :: s.env.sent } := by
  have hfree : (s.usb.rxLen != 0) = false := bne_eq_false_iff_eq.mpr hlen
  unfold dupDrop at hdup
  rw [isrSetupOut_received _ hr hp, isrData, hd, captureData_eq]
  simp only [hfree, dupDrop, hdup, sendPacket_eq]
  rfl

/-- Every other good packet is captured, published and acknowledged. -/
theorem isrSetupOut_published {s : State} {p : RxPacket} {rest : List RxPacket} {d : List Byte} {token : Byte}
    (hr : s.irq.rx = p :: rest) (hp : p.received = some d) (hd : dataOk d = true) (hlen : s.usb.rxLen = 0)
    (hdup : dupDrop s token d = false) :
    isrSetupOut token s =
      { s with
        usb.rxBuf0 := if s.usb.rxSel then inactiveAfter s d else s.usb.rxBuf0
        usb.rxBuf1 := if s.usb.rxSel then s.usb.rxBuf1 else inactiveAfter s d
        usb.rxSel := !s.usb.rxSel, usb.rxLen := BitVec.ofNat 8 d.length, usb.rxToken := token
        usb.rxLastToggle := some (toggleOf (d.getD 0 0))
        irq.token := token, irq.rx := [], irq.sent := true
        wire := transmitted [0xD2] s.wire, env.sent := [0xD2] :: s.env.sent } := by
  have hfree : (s.usb.rxLen != 0) = false := bne_eq_false_iff_eq.mpr hlen
  unfold dupDrop at hdup
  rw [isrSetupOut_received _ hr hp, isrData, hd, captureData_eq]
  simp only [hfree, dupDrop, hdup, sendPacket_eq, publishData]
  rfl

/-- A whole data packet that fits is in the buffer it was captured in. -/
theorem inactiveAfter_take (s : State) {pid : Byte} {payload : List Byte} (crc : Half) (h : payload.length ≤ 8) :
    (inactiveAfter s (dataBytes pid payload crc)).toList.take (payload.length + 3) = dataBytes pid payload crc := by
  have hlen : (dataBytes pid payload crc).length ≤ 11 := by
    rw [dataBytes_length]
    exact Nat.add_le_add_right h 3
  have htake := captured_take (if s.usb.rxSel then s.usb.rxBuf0 else s.usb.rxBuf1) (dataBytes pid payload crc)
  rwa [Nat.min_eq_left hlen, List.take_of_length_le hlen, dataBytes_length] at htake

/-- Settles O18: the token alone is remembered, or the bad packet is captured with no handshake. -/
theorem badDataPacketDropped : Obligations.BadDataPacketDropped := by
  intro s setup
  refine ⟨fun hmissing => ?_, fun p rest d hr hp hbad => ⟨inactiveAfter s d, ?_, captured_take _ d⟩⟩
  · rw [exec_setupOut_own]
    rcases hmissing with hr | ⟨p, rest, hr, hp⟩
    · rw [isrSetupOut_nil _ hr]
    · rw [isrSetupOut_garbled _ hr hp]
  · rw [exec_setupOut_own, isrSetupOut_bad _ hr hp (dataOk_eq_false hbad)]

/-- Settles O19: the packet is good and is captured, but `rx_len` is not 0. -/
theorem dataWhileBusyNaked : Obligations.DataWhileBusyNaked := by
  intro s setup pid payload rest hpid hpayload hr hlen
  refine ⟨inactiveAfter s _, ?_, inactiveAfter_take s _ hpayload⟩
  rw [exec_setupOut_own, isrSetupOut_busy _ hr rfl (dataOk_dataBytes hpid hpayload) hlen]

/-- Only an OUT whose toggle repeats is dropped (R146). -/
theorem dupDrop_eq_false {s : State} {setup : Bool} {d : List Byte}
    (h : setup = true ∨ s.usb.rxLastToggle ≠ some (toggleOf (d.getD 0 0))) :
    dupDrop s (if setup then 0x2D else 0xE1) d = false := by
  rcases h with rfl | h
  · rfl
  · simp only [dupDrop, beq_eq_false_iff_ne.mpr h, Bool.and_false, Bool.false_and]

/-- Settles O17: the packet is good, `rx_len` is 0, and the filter does not drop it. -/
theorem dataPacketAccepted : Obligations.DataPacketAccepted := by
  intro s setup pid payload rest hpid hpayload hr hlen htoggle
  refine ⟨if s.usb.rxSel then inactiveAfter s (dataBytes pid payload (crc16 payload)) else s.usb.rxBuf0,
    if s.usb.rxSel then s.usb.rxBuf1 else inactiveAfter s (dataBytes pid payload (crc16 payload)), ?_, ?_, ?_⟩
  · rw [exec_setupOut_own, isrSetupOut_published hr rfl (dataOk_dataBytes hpid hpayload) hlen (dupDrop_eq_false htoggle),
      dataBytes_length]
    rfl
  · cases s.usb.rxSel <;> rfl
  · have hstored := inactiveAfter_take s (pid := pid) (crc16 payload) hpayload
    cases hsel : s.usb.rxSel <;> exact hstored

/-- Settles O20: the packet is good and `rx_len` is 0; the filter drops it exactly when RX_DUP_FILTER holds. -/
theorem repeatedToggle : Obligations.RepeatedToggle := by
  intro s pid payload rest hpid hpayload hr hlen htoggle
  have hok := dataOk_dataBytes hpid hpayload
  have hdup : dupDrop s 0xE1 (dataBytes pid payload (crc16 payload)) = Config.rxDupFilter := by
    simp only [dupDrop, dataBytes_pid, htoggle, toggleOf, beq_self_eq_true, Bool.true_and]
  refine ⟨inactiveAfter s _, ?_, inactiveAfter_take s _ hpayload⟩
  refine (exec_setupOut_own false s).trans (congrArg Host.Outcome.next ?_)
  cases hfilter : Config.rxDupFilter with
  | true =>
    refine (isrSetupOut_dropped hr rfl hok hlen (hdup.trans hfilter)).trans ?_
    rw [← hlen]
    rfl
  | false =>
    refine (isrSetupOut_published hr rfl hok hlen (hdup.trans hfilter)).trans ?_
    rw [dataBytes_length, dataBytes_pid, show some (toggleOf pid) = s.usb.rxLastToggle from htoggle.symm]
    rfl

/-! ### IN (R148) -/

/-- What is received is the first packet left, and the others are left then (R140). -/
theorem receivePacket_eq (s : State) :
    receivePacket s = (s.irq.rx.head?.bind RxPacket.received, { s with irq.rx := s.irq.rx.tail }) := by
  unfold receivePacket
  cases hr : s.irq.rx with
  | nil =>
    have hs : s = { s with irq.rx := [] } := by rw [← hr]
    exact congrArg (Prod.mk none) hs
  | cons p rest => rfl

/-- Settles O22: NAK with nothing to send; else the packet, and `tx_len` after what the host answers. -/
theorem inServesPacket : Obligations.InServesPacket := by
  intro s
  refine (congrArg Host.Outcome.next (if_pos (tokenOk_own s))).trans (congrArg Host.Outcome.next ?_)
  unfold isrIn
  split
  · rw [sendPacket_eq]; rfl
  · rw [sendPacket_eq, receivePacket_eq]
    by_cases hack : s.irq.rx.head?.bind RxPacket.received = some [0xD2]
    · simp only [hack, if_pos]; rfl
    · simp only [hack, if_false]; rfl

/-! ### An edge with no packet behind it (R149, R324) -/

theorem hostMove_interruptReturn (e : HostEvent) (s : State) :
    hostMove e (interruptReturn s) = interruptReturn (hostMove e s) := by
  cases e with
  | idle | withdraw => rfl
  | _ => cases hdm : s.env.dmLow <;> simp only [hostMove, interruptReturn_env, hdm] <;> rfl

/-- The environment does not look at what the ISR's return writes. -/
theorem tick_interruptReturn (s : State) : tick (interruptReturn s) = interruptReturn (tick s) := by
  have hbus : ∀ u : State, busTick (interruptReturn u) = interruptReturn (busTick u) := fun u => by
    unfold busTick
    rw [interruptReturn_env]
    cases u.env.bus <;> rfl
  have hhost : hostTick (interruptReturn s) = interruptReturn (hostTick s) := by
    unfold hostTick
    rw [interruptReturn_env]
    cases s.env.host with
    | nil => rfl
    | cons e rest => exact hostMove_interruptReturn e { s with env.host := rest }
  rw [tick, tick, hhost, hbus]

/-- Settles O14: the interrupt's entry finds no offer, so the next step is the return. -/
theorem emptyActivation : Obligations.EmptyActivation := by
  intro s hp he ha ho
  have hi : interruptDue s = true := by simp [interruptDue, hp, he, ha]
  have hactive : (tick (interruptEntry s)).irq.active = true := tick_active _
  have hrx : (tick (interruptEntry s)).irq.rx = [] := (tick_rx _).trans ho
  have hback : interruptReturn (interruptEntry s) = { s with irq.pending := false, irq.rx := [], irq.sent := false } := by
    simp only [interruptReturn, interruptEntry, ← he, ← ha, ← ho]
  simp only [steps, step_interrupt_due hi, step_isr_return hactive hrx, ← tick_interruptReturn, hback]

end Sys2Proof.Machine

/-! POLL's steps one after the other, with no edge latched and the host standing still: how a run of them is put together,
and how one whose steps are known is evaluated. -/

namespace Sys2Proof.Machine

/-! ### The bus agent's choices -/

/-- The environment after the bus agent's next choice; an empty script keeps the present one (R274). -/
def Env.next (e : Env) : Env :=
  match e.bus with
  | [] => e
  | d :: rest => { e with bus := rest, sdaLow := d.sdaLow, sclLow := d.sclLow }

/-- While the host stands still, the environment's move is the bus agent's. -/
theorem tick_eq_next {s : State} (h : s.env.host = []) : tick s = { s with env := s.env.next } := by
  simp only [tick, hostTick, h, busTick, Env.next]
  cases s.env.bus <;> rfl

theorem Env.next_of_quiet {e : Env} (h : e.bus = []) : e.next = e := by
  unfold Env.next
  rw [h]

theorem Env.iterate_of_quiet {e : Env} (h : e.bus = []) (n : Nat) : Env.next^[n] e = e :=
  Function.iterate_fixed (next_of_quiet h) n

@[simp] theorem Env.next_host (e : Env) : e.next.host = e.host := by
  unfold Env.next
  split <;> rfl

/-! ### Runs of POLL -/

/-- No edge is latched, the ISR does not run, and the host stands still: POLL's steps follow one another. -/
structure Calm (s : State) : Prop where
  host   : s.env.host = []
  latch  : s.irq.pending = false
  active : s.irq.active = false

theorem Calm.not_due {s : State} (h : Calm s) : interruptDue s = false := by simp [interruptDue, h.latch]

/-- POLL's n next steps lead from the pending steps `ops` and the state s to the pending steps `ops'` and the state t,
whatever else is pending behind them. -/
def PollRun (n : Nat) (ops : List MicroOp) (s : State) (ops' : List MicroOp) (t : State) : Prop :=
  ∀ rest, steps n { s with poll.cont := ops ++ rest } = .next { t with poll.cont := ops' ++ rest }

theorem steps_succ {n : Nat} {s t : State} (h : step s = .next t) : steps (n + 1) s = steps n t := by
  simp only [steps, h]

theorem steps_add {n m : Nat} {s t : State} (h : steps n s = .next t) : steps (n + m) s = steps m t := by
  induction n generalizing s with
  | zero => cases h; rw [Nat.zero_add]
  | succ n ih =>
    rw [Nat.succ_add]
    cases hs : step s with
    | next u => simp only [steps, hs] at h ⊢; exact ih h
    | fault f => simp only [steps, hs] at h; cases h
    | refused r => simp only [steps, hs] at h; cases h

theorem PollRun.refl (ops : List MicroOp) (s : State) : PollRun 0 ops s ops s := fun _ => rfl

theorem PollRun.trans {n m : Nat} {a b c : List MicroOp} {s t u : State} (h : PollRun n a s b t)
    (h' : PollRun m b t c u) : PollRun (n + m) a s c u := fun rest => (steps_add (h rest)).trans (h' rest)

theorem PollRun.of_count {n m : Nat} {a b : List MicroOp} {s t : State} (h : PollRun n a s b t) (hnm : n = m) :
    PollRun m a s b t := hnm ▸ h

/-- What is pending behind the steps of a run stays pending. -/
theorem PollRun.append {n : Nat} {a b : List MicroOp} {s t : State} (h : PollRun n a s b t) (c : List MicroOp) :
    PollRun n (a ++ c) s (b ++ c) t := fun rest => by
  simpa only [List.append_assoc] using h (c ++ rest)

/-- Two lists of steps, one after the other. -/
theorem PollRun.seq {n m : Nat} {a b c : List MicroOp} {s t u : State} (h : PollRun n a s [] t)
    (h' : PollRun m b t c u) : PollRun (n + m) (a ++ b) s c u := (h.append b).trans h'

/-- A run that works everything off, from a state with nothing else pending. -/
theorem PollRun.steps_eq {n : Nat} {ops ops' : List MicroOp} {s t : State} (h : PollRun n ops s ops' t) :
    steps n { s with poll.cont := ops } = .next { t with poll.cont := ops' } := by
  simpa only [List.append_nil] using h []

/-- A step of POLL that is no instruction. -/
def MicroOp.plain : MicroOp → Bool
  | .dispatch _ | .i2cCmd _ | .calCmd _ => false
  | _ => true

theorem step_plain {s : State} {op : MicroOp} {rest : List MicroOp} (ha : s.irq.active = false)
    (hi : interruptDue s = false) (hs : pollSteps s = op :: rest) (hop : op.plain = true) :
    step s = pollMicro op rest { s with poll.cont := rest } := by
  unfold step
  simp only [nextAction, ha, hi, pollAction, hs]
  cases op
  case dispatch | i2cCmd | calCmd => cases hop
  all_goals rfl

/-- An atomic step does not look at what is pending. -/
theorem microStep_withCont {op : MicroOp} {s t : State} {more : List MicroOp} (h : microStep op s = .go more t)
    (ops : List MicroOp) : microStep op { s with poll.cont := ops } = .go more { t with poll.cont := ops } := by
  cases op
  case i2cCmd c => obtain ⟨hc, rfl⟩ := issue_go h; simp [microStep, hc, issue]
  case calCmd c => obtain ⟨hc, rfl⟩ := issue_go h; simp [microStep, hc, issue]
  case dispatch => cases h
  case setDirection l m => cases h; cases l <;> rfl
  case setLine l v => cases h; cases l <;> rfl
  case endIfShort | noteWriteAck => cases h; simp only [microStep, done]; split <;> rfl
  case calKeep => cases h; simp only [microStep, done, calKeep]; split <;> rfl
  case rstartCheck =>
    simp only [microStep] at h ⊢
    split at h <;> cases h
    next hscl => exact if_pos hscl
  case waitScl =>
    simp only [microStep] at h
    split at h <;> cases h
    next hscl => exact if_pos (c := readLine { s with poll.cont := ops } (.i2c .scl) = true) hscl
  case measureOpen | measureEnd =>
    simp only [microStep] at h ⊢
    split at h <;> cases h
    next hm => simp only; rfl
  all_goals cases h; rfl

/-- One step that is no instruction. -/
theorem PollRun.micro {op : MicroOp} {more : List MicroOp} {s t : State} (hc : Calm s) (hop : op.plain = true)
    (h : microStep op s = .go more t) (ops : List MicroOp) :
    PollRun 1 (op :: ops) s (more ++ ops) { t with env := t.env.next } := fun rest => by
  have hhost : t.env.host = [] := by
    obtain ⟨-, -, henv, -⟩ := microStep_frame h
    rw [henv]
    exact hc.host
  have hstep : step { s with poll.cont := op :: ops ++ rest } =
      pollMicro op (ops ++ rest) { s with poll.cont := ops ++ rest } :=
    step_plain (s := { s with poll.cont := op :: ops ++ rest }) hc.active hc.not_due rfl hop
  have hmicro := microStep_withCont h (ops ++ rest)
  have hmove : tick { t with poll.cont := more ++ (ops ++ rest) } =
      { t with poll.cont := more ++ (ops ++ rest), env := t.env.next } := tick_eq_next hhost
  rw [List.append_assoc]
  refine (steps_succ (n := 0) (hstep.trans ?_)).trans (congrArg Host.Outcome.next hmove)
  rw [pollMicro, hmicro]

theorem Calm.micro {op : MicroOp} {more : List MicroOp} {s t : State} (hc : Calm s)
    (h : microStep op s = .go more t) : Calm { t with env := t.env.next } := by
  obtain ⟨-, hirq, henv, -⟩ := microStep_frame h
  refine ⟨?_, by rw [hirq]; exact hc.latch, by rw [hirq]; exact hc.active⟩
  rw [Env.next_host, henv]
  exact hc.host

/-- n steps of POLL that are no instructions, evaluated. -/
def pollEval : Nat → List MicroOp → State → Option (List MicroOp × State)
  | 0, ops, s => some (ops, s)
  | _ + 1, [], _ => none
  | n + 1, op :: ops, s =>
    match op.plain, microStep op s with
    | true, .go more t => pollEval n (more ++ ops) { t with env := t.env.next }
    | _, _ => none

/-- What the evaluation comes to, POLL comes to. -/
theorem PollRun.of_eval {n : Nat} {ops ops' : List MicroOp} {s t : State} (hc : Calm s)
    (h : pollEval n ops s = some (ops', t)) : PollRun n ops s ops' t := by
  induction n generalizing ops s with
  | zero => cases h; exact .refl _ _
  | succ n ih =>
    cases ops with
    | nil => cases h
    | cons op ops =>
      simp only [pollEval] at h
      split at h
      · next more u hop hm =>
        rw [Nat.add_comm]
        exact (PollRun.micro hc hop hm ops).trans (ih (hc.micro hm) h)
      · cases h

/-- The same while the bus agent stands still too. -/
theorem PollRun.of_eval_quiet {n : Nat} {ops ops' : List MicroOp} {s t : State} (hc : Calm s) (hb : s.env.bus = [])
    (h : pollEval n ops s = some (ops', { t with env := Env.next^[n] s.env })) (ht : t.env = s.env) :
    PollRun n ops s ops' t := by
  rw [Env.iterate_of_quiet hb, ← ht] at h
  exact .of_eval hc h

/-- One step that is no instruction, while the bus agent stands still too. -/
theorem PollRun.micro_quiet {op : MicroOp} {more : List MicroOp} {s t : State} (hc : Calm s) (hb : s.env.bus = [])
    (hop : op.plain = true) (h : microStep op s = .go more t) (ht : t.env = s.env) : PollRun 1 [op] s more t := by
  have hrun := PollRun.micro hc hop h []
  rwa [List.append_nil, ht, Env.next_of_quiet hb, ← ht] at hrun

theorem Calm.of_atPhase {p : PollPhase} {bus : List BusDrive} {s : State} (h : AtPhaseWith p [] bus s) : Calm s := by
  obtain ⟨hhost, -, hlatch, hactive, -⟩ := h
  exact ⟨hhost, hlatch, hactive⟩

/-- Between two steps of the poll loop, POLL takes up the program of its phase (R150). -/
theorem step_phase {s : State} {p : PollPhase} (ha : s.irq.active = false) (hi : interruptDue s = false)
    (hphase : s.poll.phase = p) (hcont : s.poll.cont = []) : step s = step { s with poll.cont := phaseOps p } := by
  have hsteps : pollSteps s = phaseOps p := by rw [pollSteps, hcont, if_pos rfl, hphase]
  have hpending : pollSteps { s with poll.cont := phaseOps p } = phaseOps p := by cases p <;> rfl
  have hdue : interruptDue { s with poll.cont := phaseOps p } = false := hi
  unfold step
  simp only [nextAction, ha, hi, hdue, pollAction, hsteps, hpending]
  cases p <;> rfl

theorem PollRun.steps_phase {n : Nat} {p : PollPhase} {bus : List BusDrive} {s t : State} {ops' : List MicroOp}
    (h : AtPhaseWith p [] bus s) (ht : t.poll.cont = ops') (hrun : PollRun (n + 1) (phaseOps p) s ops' t) :
    steps (n + 1) s = .next t := by
  have hc := Calm.of_atPhase h
  obtain ⟨-, -, -, -, hphase, hcont⟩ := h
  have hend := hrun.steps_eq
  subst ht
  have hfirst := step_phase hc.active hc.not_due hphase hcont
  rw [← show steps (n + 1) { s with poll.cont := phaseOps p } = .next t from hend]
  simp only [steps, hfirst]

end Sys2Proof.Machine

/-! POLL's phases: S1 up to a request's dispatch (O46, O47), S2 with nothing to refill (O51), S3 (O52). -/

namespace Sys2Proof.Machine

/-! ### The payload in a buffer (R24) -/

/-- The payload bytes of a buffer, one after the other. -/
theorem payload_eq_map (buf : Vector Byte Config.bufBytes) {m : Nat} (h : m ≤ 10) :
    (buf.toList.drop 1).take m = (List.range m).map (payloadByte buf) := by
  apply List.ext_getElem
  · simp
    omega
  · intro j hj _
    have hlt : j + 1 < 11 := by
      simp only [List.length_take] at hj
      omega
    simp [payloadByte, hlt, Nat.add_comm]

/-! ### S1 (R151 to R155) -/

/-- S1 after its snapshot of the receive handoff. -/
theorem steps_s1 {n : Nat} {s t : State} {ops' : List MicroOp} (h : AtPhase .s1 s) (ht : t.poll.cont = ops')
    (hrun : PollRun n (s1TakeOps s.usb.rxLen s.usb.rxSel s.usb.rxToken) { s with irq.enable := true } ops' t) :
    steps (n + 6) s = .next t := by
  have hc := Calm.of_atPhase h
  have hsnap : PollRun 5 (phaseOps .s1) s [.s1Take s.usb.rxLen s.usb.rxSel s.usb.rxToken]
      { s with irq.enable := true } := .of_eval_quiet hc h.2.1 rfl rfl
  have htake := hsnap.trans (.micro_quiet (Calm.of_atPhase h) h.2.1 rfl rfl rfl)
  exact PollRun.steps_phase h ht (Nat.add_comm 6 n ▸ htake.trans hrun)

/-- Settles O46: with no packet there is nothing to do; a SETUP that is not 8 bytes long and an empty OUT come to the same
four assignments. -/
theorem s1EmptyOrAbort : Obligations.S1EmptyOrAbort := by
  intro s h
  have hc : Calm { s with irq.enable := true } := Calm.of_atPhase h
  refine ⟨fun hlen => ?_, fun habort => ?_⟩
  · have hops : s1TakeOps s.usb.rxLen s.usb.rxSel s.usb.rxToken = [.goto .s2] := if_pos hlen
    refine steps_s1 (n := 1) h h.2.2.2.2.2 ?_
    rw [hops]
    exact .of_eval_quiet hc h.2.1 rfl rfl
  · have hops : s1TakeOps s.usb.rxLen s.usb.rxSel s.usb.rxToken =
        [.setTxLen 0, .setTxState .idle, .setRxLen 0, .goto .s2] := by
      rcases habort with ⟨htoken, h3, h11⟩ | ⟨htoken, hlen⟩
      · have hne : s.usb.rxLen ≠ 0 := by bv_omega
        have h8 : (s.usb.rxLen - 3).toNat ≠ 8 := by bv_omega
        simp only [s1TakeOps, s1SetupOps, hne, htoken, h8, if_true, if_false]
        rfl
      · rw [htoken, hlen]
        rfl
    refine steps_s1 (n := 4) h h.2.2.2.2.2 ?_
    rw [hops]
    exact .of_eval_quiet hc h.2.1 rfl rfl

theorem putTx_eq {j : Nat} (hj : j < Config.bufBytes) (b : Byte) (s : State) :
    putTx j b s = { s with usb.txBuf := s.usb.txBuf.set j b } := by
  have hset : s.usb.txBuf.setIfInBounds j b = s.usb.txBuf.set j b := by
    apply Vector.ext
    intro i hi
    rw [Vector.getElem_setIfInBounds, Vector.getElem_set]
  rw [putTx, hset]

/-- Settles O47: the old transmission is aborted, then the payload is read in eight steps. -/
theorem s1ReachesDispatch : Obligations.S1ReachesDispatch := by
  intro s h hlen htoken
  have hc : Calm { s with irq.enable := true } := Calm.of_atPhase h
  have hops : s1TakeOps s.usb.rxLen s.usb.rxSel s.usb.rxToken =
      [.setTxLen 0, .setTxState .idle, .setTxPid 0xC3, .readSetup s.usb.rxSel [], .setRxLen 0, .goto .s2] := by
    rw [hlen, htoken]
    rfl
  have hpayload : setupPayload s s.usb.rxSel = (List.range 8).map (payloadByte (rxBuf s s.usb.rxSel)) :=
    payload_eq_map _ (by decide)
  have hset := putTx_eq (Nat.zero_lt_succ 10) 0xC3 { s with usb.txLen := 0, usb.txState := .idle, irq.enable := true }
  have hrun : PollRun 11
      [.setTxLen 0, .setTxState .idle, .setTxPid 0xC3, .readSetup s.usb.rxSel [], .setRxLen 0, .goto .s2]
      { s with irq.enable := true } [.dispatch (setupPayload s s.usb.rxSel), .setRxLen 0, .goto .s2]
      (putTx 0 0xC3 { s with usb.txLen := 0, usb.txState := .idle, irq.enable := true }) := by
    rw [hpayload]
    exact .of_eval_quiet hc h.2.1 rfl rfl
  rw [hset] at hrun
  refine steps_s1 (n := 11) h rfl ?_
  rw [hops]
  exact hrun

/-! ### S2 with nothing to refill (R160, R167) -/

/-- S2 after its snapshot of the transmit handoff. -/
theorem steps_s2 {n : Nat} {bus : List BusDrive} {s t : State} (h : AtPhaseWith .s2 [] bus s)
    (hrun : PollRun n (s2TakeOps s s.usb.txLen) { s with irq.enable := true, env := Env.next^[4] s.env } [] t)
    (ht : t.poll.cont = []) :
    steps (n + 4) s = .next t := by
  have hc := Calm.of_atPhase h
  have hsnap : PollRun 3 (phaseOps .s2) s [.s2Take s.usb.txLen]
      { s with irq.enable := true, env := Env.next^[3] s.env } := .of_eval hc rfl
  have hc3 : Calm { s with irq.enable := true, env := Env.next^[3] s.env } :=
    ⟨by simpa using hc.host, hc.latch, hc.active⟩
  have htake := PollRun.micro hc3 (op := .s2Take s.usb.txLen) rfl rfl []
  rw [List.append_nil] at htake
  exact PollRun.steps_phase h ht (Nat.add_comm 4 n ▸ (hsnap.trans htake).trans hrun)

/-- Settles O51: nothing is refilled, and the commit is due exactly under its three conditions. -/
theorem addressCommit : Obligations.AddressCommit := by
  intro s h hrefill
  have hc : Calm { s with irq.enable := true } := Calm.of_atPhase h
  have hquiet : Env.next^[4] s.env = s.env := Env.iterate_of_quiet h.2.1 4
  have hops : s2TakeOps s s.usb.txLen = [.addressCommit, .goto .s3] := by
    have hdue : refillDue s s.usb.txLen = false := by
      rcases hrefill with hlen | hidle
      · simp only [refillDue, beq_eq_false_iff_ne.mpr hlen, Bool.false_and]
      · simp only [refillDue, hidle, bne_self_eq_false, Bool.and_false]
    rw [s2TakeOps, hdue]
    rfl
  refine ⟨fun ⟨hidle, hlen, hpending⟩ => ?_, fun hno => ?_⟩
  · have hcommit : addressCommitOps s = [.setAddress s.usb.newAddress, .setAddrPending false] :=
      if_pos (by simp [commitDue, hidle, hlen, hpending])
    have htest : PollRun 1 [.addressCommit] { s with irq.enable := true } (addressCommitOps s)
      { s with irq.enable := true } := .micro_quiet hc h.2.1 rfl rfl rfl
    rw [hcommit] at htest
    refine steps_s2 (n := 4) h ?_ h.2.2.2.2.2
    rw [hops, hquiet]
    exact (htest.append [.goto .s3]).trans (m := 3) (.of_eval_quiet hc h.2.1 rfl rfl)
  · have hcommit : addressCommitOps s = [] := if_neg (by simpa [commitDue, and_assoc] using hno)
    have htest : PollRun 1 [.addressCommit] { s with irq.enable := true } (addressCommitOps s)
      { s with irq.enable := true } := .micro_quiet hc h.2.1 rfl rfl rfl
    rw [hcommit] at htest
    refine steps_s2 (n := 2) h ?_ h.2.2.2.2.2
    rw [hops, hquiet]
    exact htest.seq (b := [.goto .s3]) (m := 1) (.of_eval_quiet hc h.2.1 rfl rfl)

/-! ### S3 (R169 to R171) -/

theorem readLine_dm {s : State} (h : UsbReleased s) : readLine s .dm = !s.env.dmLow := by
  simp [readLine, h.2]

theorem sampleDmOps_high {s : State} (h : UsbReleased s) (hdm : s.env.dmLow = false) (left : Nat) :
    sampleDmOps s left = [.goto .s1] := if_pos (by rw [readLine_dm h, hdm]; rfl)

theorem sampleDmOps_low {s : State} (h : UsbReleased s) (hdm : s.env.dmLow = true) (left : Nat) :
    sampleDmOps s left = if left ≤ 1 then busResetOps ++ [.goto .s1] else [.sampleDm (left - 1)] :=
  if_neg (by rw [readLine_dm h, hdm]; decide)

/-- DM is high at a sample: no reset, and the loop goes on (R169). -/
theorem PollRun.sample_high {s : State} (hc : Calm s) (hb : s.env.bus = []) (h : UsbReleased s)
    (hdm : s.env.dmLow = false) (left : Nat) : PollRun 2 [.sampleDm left] s [] { s with poll.phase := .s1 } := by
  have hsample : PollRun 1 [.sampleDm left] s (sampleDmOps s left) s := .micro_quiet hc hb rfl rfl rfl
  rw [sampleDmOps_high h hdm] at hsample
  exact hsample.trans (m := 1) (.of_eval_quiet hc hb rfl rfl)

/-- n samples that find DM low, while there are still more to take. -/
theorem PollRun.samples_low {s : State} (hc : Calm s) (hb : s.env.bus = []) (h : UsbReleased s)
    (hdm : s.env.dmLow = true) : ∀ n left : Nat, 1 ≤ left → PollRun n [.sampleDm (left + n)] s [.sampleDm left] s
  | 0, _, _ => .refl _ _
  | n + 1, left, hleft => by
    have hsample : PollRun 1 [.sampleDm (left + (n + 1))] s (sampleDmOps s (left + (n + 1))) s :=
      .micro_quiet hc hb rfl rfl rfl
    rw [sampleDmOps_low h hdm, if_neg (by omega)] at hsample
    exact Nat.add_comm 1 n ▸ hsample.trans (samples_low hc hb h hdm n left hleft)

/-- What a bus reset makes of the transport (R170). -/
def Usb.cleared (u : Usb) : Usb :=
  { u with
    rxLen := 0, txLen := 0, txState := .idle, txTotal := 0, address := 0, newAddress := 0, addrPending := false
    rxLastToggle := none }

/-- Ten samples that find DM low, then the bus reset up to its calibration (R169, R170). -/
theorem PollRun.bus_reset {s : State} (hc : Calm s) (hb : s.env.bus = []) (h : UsbReleased s)
    (hdm : s.env.dmLow = true) :
    PollRun 19 (phaseOps .s3) s [.calibrateOnce, .intUnmask, .goto .s1]
      { s with usb := s.usb.cleared, irq.enable := false } := by
  have hlow : PollRun 9 [.sampleDm 10] s [.sampleDm 1] s := samples_low hc hb h hdm 9 1 le_rfl
  have hlast : PollRun 1 [.sampleDm 1] s (sampleDmOps s 1) s := .micro_quiet hc hb rfl rfl rfl
  rw [sampleDmOps_low h hdm, if_pos le_rfl] at hlast
  exact (hlow.trans hlast).trans (m := 9) (.of_eval_quiet hc hb rfl rfl)

/-- The bus reset calibrates where that has not been done (R171). -/
theorem PollRun.calibrate_once {s : State} (hc : Calm s) (hb : s.env.bus = []) :
    PollRun 1 [.calibrateOnce] { s with usb := s.usb.cleared, irq.enable := false }
      (if s.cal.done then [] else [.calCmd 1]) { s with usb := s.usb.cleared, irq.enable := false } :=
  .micro_quiet ⟨hc.host, hc.latch, hc.active⟩ hb rfl rfl rfl

/-- A sample that finds DM low, the host moving after it. -/
theorem step_sample_low {s : State} {left : Nat} (ha : s.irq.active = false) (hp : s.irq.pending = false)
    (h : UsbReleased s) (hdm : s.env.dmLow = true) (hcont : s.poll.cont = [.sampleDm (left + 2)]) :
    step s = .next (tick { s with poll.cont := [.sampleDm (left + 1)] }) := by
  have hi : interruptDue s = false := by simp [interruptDue, hp]
  have hs : pollSteps s = [.sampleDm (left + 2)] := by rw [pollSteps, hcont]; rfl
  have hlow : sampleDmOps { s with poll.cont := [] } (left + 2) = [.sampleDm (left + 1)] :=
    (sampleDmOps_low h hdm _).trans (if_neg (by omega))
  rw [step_plain ha hi hs rfl]
  simp only [pollMicro, microStep, hlow, List.append_nil]

/-- n samples that find DM low, the host staying idle. -/
theorem steps_samples_idle {s : State} (ha : s.irq.active = false) (hp : s.irq.pending = false) (hb : s.env.bus = [])
    (h : UsbReleased s) (hdm : s.env.dmLow = true) (host : List HostEvent) (left : Nat) : ∀ n : Nat,
    steps n { s with poll.cont := [.sampleDm (left + 1 + n)], env.host := List.replicate n .idle ++ host } =
      .next { s with poll.cont := [.sampleDm (left + 1)], env.host := host }
  | 0 => rfl
  | n + 1 => by
    have hmove : tick { s with
        poll.cont := [.sampleDm (left + n + 1)], env.host := .idle :: (List.replicate n .idle ++ host) } =
        { s with poll.cont := [.sampleDm (left + n + 1)], env.host := List.replicate n .idle ++ host } := by
      simp only [tick, hostTick, hostMove, busTick, hb]
    have hlow := step_sample_low (s := { s with
      poll.cont := [.sampleDm (left + n + 2)], env.host := .idle :: (List.replicate n .idle ++ host) }) ha hp h hdm rfl
    have hnext := steps_samples_idle ha hp hb h hdm host left n
    rw [Nat.add_right_comm left 1 n] at hnext
    rw [Nat.add_right_comm left 1 (n + 1), List.replicate_succ, List.cons_append]
    exact (steps_succ (hlow.trans (congrArg Host.Outcome.next hmove))).trans hnext

/-- The host has ended the bus reset, and the activation that DM's rise costs is over. -/
def State.resetEnded (s : State) : State :=
  { s with irq.rx := [], irq.sent := false, env := { s.env with host := [], dmLow := false } }

/-- The host has just ended the bus reset: DM's rise is latched. -/
def State.resetEdge (s : State) (left : Nat) : State :=
  { s with
    poll.cont := [.sampleDm (left + 1)], irq.pending := true, env := { s.env with host := [], dmLow := false } }

/-- The sample before which the host ends the bus reset, and the empty activation that DM's rise latches (R322). -/
theorem steps_reset_ends {s : State} {left : Nat} (henable : s.irq.enable = true) (ha : s.irq.active = false)
    (hp : s.irq.pending = false) (hb : s.env.bus = []) (h : UsbReleased s) (hdm : s.env.dmLow = true)
    (hoffer : s.env.offer = []) :
    steps 3 { s with poll.cont := [.sampleDm (left + 2)], env.host := [.resetEnd] } =
      .next { s.resetEnded with poll.cont := [.sampleDm (left + 1)] } := by
  have hlow := step_sample_low (s := { s with poll.cont := [.sampleDm (left + 2)], env.host := [.resetEnd] }) ha hp h hdm
    rfl
  have hmove : tick { s with poll.cont := [.sampleDm (left + 1)], env.host := [.resetEnd] } = s.resetEdge left := by
    simp only [tick, hostTick, hostMove, hdm, if_true, busTick, hb, State.resetEdge]
  have hdue : interruptDue (s.resetEdge left) = true := by simp [interruptDue, State.resetEdge, henable, ha]
  have hentry := step_interrupt_due hdue
  rw [tick_quiet (interruptEntry (s.resetEdge left)) rfl hb] at hentry
  have hreturn := step_isr_return (s := interruptEntry (s.resetEdge left)) rfl hoffer
  rw [tick_quiet (interruptReturn (interruptEntry (s.resetEdge left))) rfl hb] at hreturn
  have hback : interruptReturn (interruptEntry (s.resetEdge left)) =
      { s.resetEnded with poll.cont := [.sampleDm (left + 1)] } := by
    simp only [interruptReturn, interruptEntry, State.resetEdge, State.resetEnded, henable, ha, hp, hoffer]
  rw [steps_succ (hlow.trans (congrArg Host.Outcome.next hmove)), steps_succ hentry, steps_succ hreturn, hback]
  rfl

/-- Settles O52: with DM low the samples follow one another; a rise of DM latches an edge, which the ISR serves before
the next sample, and the tenth low sample clears the transport. -/
theorem busReset : Obligations.BusReset := by
  intro s henable hreleased
  refine ⟨fun h hdm => ?_, fun m h1 h9 h hdm hoffer => ?_, fun h hdm => ⟨?_, fun hdone => ?_, fun hdone => ?_⟩⟩
  · exact PollRun.steps_phase h h.2.2.2.2.2 (.sample_high (Calm.of_atPhase h) h.2.1 hreleased hdm 10)
  · obtain ⟨n, rfl⟩ : ∃ n, m = n + 1 := ⟨m - 1, by omega⟩
    obtain ⟨left, hleft⟩ : ∃ left, 10 = left + 2 + n := ⟨8 - n, by omega⟩
    obtain ⟨hhost, hb, hp, ha, hphase, hcont⟩ := h
    have hi : interruptDue s = false := by simp [interruptDue, hp]
    have hstart : steps (n + 5) s = steps (n + 5)
        { s with poll.cont := [.sampleDm (left + 2 + n)], env.host := List.replicate n .idle ++ [.resetEnd] } := by
      have hscript : List.replicate n .idle ++ [.resetEnd] = s.env.host := hhost.symm
      have hfirst := step_phase ha hi hphase hcont
      rw [← hleft, hscript]
      simp only [steps, hfirst]
      rfl
    have hidle := steps_samples_idle ha hp hb hreleased hdm [.resetEnd] (left + 1) n
    have hend := steps_reset_ends (left := left) henable ha hp hb hreleased hdm hoffer
    have hhigh := (PollRun.sample_high (s := s.resetEnded) ⟨rfl, hp, ha⟩ hb hreleased rfl (left + 1)).steps_eq
    refine hstart.trans ((steps_add (m := 5) hidle).trans ((steps_add (m := 2) hend).trans (hhigh.trans ?_)))
    rw [← hcont]
    rfl
  · exact PollRun.steps_phase h rfl (.bus_reset (Calm.of_atPhase h) h.2.1 hreleased hdm)
  · have hreset := PollRun.bus_reset (Calm.of_atPhase h) h.2.1 hreleased hdm
    have hcal := PollRun.calibrate_once (Calm.of_atPhase h) h.2.1
    rw [hdone] at hcal
    have hend : PollRun 2 [.intUnmask, .goto .s1] { s with usb := s.usb.cleared, irq.enable := false } []
        { s with usb := s.usb.cleared, irq.enable := true, poll.phase := .s1 } :=
      .of_eval_quiet (Calm.of_atPhase h) h.2.1 rfl rfl
    rw [← henable] at hend
    exact PollRun.steps_phase h h.2.2.2.2.2 (hreset.trans ((hcal.append _).trans hend))
  · have hreset := PollRun.bus_reset (Calm.of_atPhase h) h.2.1 hreleased hdm
    have hcal := PollRun.calibrate_once (Calm.of_atPhase h) h.2.1
    rw [hdone] at hcal
    exact PollRun.steps_phase h rfl (hreset.trans (hcal.append [.intUnmask, .goto .s1]))

end Sys2Proof.Machine

/-! A refill of the transmit buffer: the bytes go in one after the other behind the PID, then the packet is finished
(R160, R161, R165, R166); from RAM or ROM (O49). -/

namespace Sys2Proof.Machine

/-! ### The bytes at the front of a buffer -/

theorem prefix_set_end {buf : Vector Byte Config.bufBytes} {l : List Byte} (h : l <+: buf.toList)
    (hlen : l.length < 11) (b : Byte) : l ++ [b] <+: (buf.setIfInBounds l.length b).toList := by
  obtain ⟨r, hr⟩ := h
  have hlength := congrArg List.length hr
  cases r with
  | nil =>
    simp only [List.append_nil, Vector.length_toList] at hlength
    exact absurd hlength (Nat.ne_of_lt hlen)
  | cons c r => exact ⟨r, by simp [Vector.toList_setIfInBounds, ← hr]⟩

theorem prefix_set_head {buf : Vector Byte Config.bufBytes} {a : Byte} {l : List Byte} (h : a :: l <+: buf.toList)
    (b : Byte) : b :: l <+: (buf.setIfInBounds 0 b).toList := by
  obtain ⟨r, hr⟩ := h
  exact ⟨r, by simp [Vector.toList_setIfInBounds, ← hr]⟩

theorem toList_head? (buf : Vector Byte Config.bufBytes) : buf.toList.head? = some buf[0] := by
  simp [List.head?_eq_getElem?]

theorem head_prefix (buf : Vector Byte Config.bufBytes) : [buf[0]] <+: buf.toList :=
  List.singleton_prefix_iff_head?_eq_some.mpr (toList_head? buf)

theorem head_of_prefix {buf : Vector Byte Config.bufBytes} {a : Byte} {l : List Byte} (h : a :: l <+: buf.toList) :
    buf[0] = a := by
  obtain ⟨r, hr⟩ := h
  have hhead := toList_head? buf
  rw [← hr] at hhead
  cases hhead
  rfl

theorem payloadByte_of_prefix {buf : Vector Byte Config.bufBytes} {pid : Byte} {payload : List Byte}
    (h : pid :: payload <+: buf.toList) {i : Nat} (hi : i < payload.length) : payloadByte buf i = payload[i] := by
  obtain ⟨r, hr⟩ := h
  simp [payloadByte, ← hr, Nat.add_comm 1 i, List.getElem?_append_left hi, hi]

/-! ### Filling the buffer -/

/-- Steps that each write the payload byte of their index: the bytes stand behind the PID then. -/
theorem PollRun.fill {op : Nat → MicroOp} {n : Nat} {f : Nat → Byte} {s : State}
    (hop : ∀ i buf, PollRun n [op i] { s with usb.txBuf := buf } []
      { s with usb.txBuf := buf.setIfInBounds (1 + i) (f i) }) :
    ∀ k, k ≤ 10 → ∃ buf, PollRun (n * k) ((List.range k).map op) s [] { s with usb.txBuf := buf } ∧
      s.usb.txBuf[0] :: (List.range k).map f <+: buf.toList
  | 0, _ => ⟨s.usb.txBuf, .refl _ _, head_prefix _⟩
  | k + 1, hk => by
    obtain ⟨buf, hrun, hbuf⟩ := PollRun.fill hop k (by omega)
    have hset := prefix_set_end hbuf (by simpa using Nat.succ_le_succ hk) (f k)
    refine ⟨buf.setIfInBounds (1 + k) (f k), ?_, ?_⟩
    · rw [List.range_succ, List.map_append]
      exact hrun.seq (hop k buf)
    · rw [List.range_succ, List.map_append]
      simpa [Nat.add_comm] using hset

/-! ### The end of a refill (R161, R165, R166) -/

/-- `append_crc` reads the payload byte after byte. -/
theorem PollRun.append_crc_reads {s : State} (hc : Calm s) (hb : s.env.bus = []) {pid : Byte} {payload : List Byte}
    (hbuf : pid :: payload <+: s.usb.txBuf.toList) : ∀ n ≤ payload.length,
    PollRun n [.appendCrc payload.length []] s [.appendCrc payload.length (payload.take n)] s
  | 0, _ => .refl _ _
  | n + 1, hn => by
    have hops : appendCrcOps s payload.length (payload.take n) = [.appendCrc payload.length (payload.take (n + 1))] := by
      have hlt : (payload.take n).length < payload.length := by simp; omega
      rw [appendCrcOps, if_pos hlt, List.take_succ_eq_append_getElem (by omega)]
      simp [payloadByte_of_prefix hbuf (i := n) (by omega), Nat.min_eq_left (show n ≤ payload.length by omega)]
    have hread : PollRun 1 [.appendCrc payload.length (payload.take n)] s
      (appendCrcOps s payload.length (payload.take n)) s := .micro_quiet hc hb rfl rfl rfl
    rw [hops] at hread
    exact (append_crc_reads hc hb hbuf n (by omega)).trans hread

/-- `append_crc`: the CRC16 of the payload goes behind it. -/
theorem PollRun.append_crc {s : State} (hc : Calm s) (hb : s.env.bus = []) {pid : Byte} {payload : List Byte}
    (hbuf : pid :: payload <+: s.usb.txBuf.toList) (hlen : payload.length ≤ 8) :
    ∃ buf, PollRun (payload.length + 3) [.appendCrc payload.length []] s [] { s with usb.txBuf := buf } ∧
      dataBytes pid payload (crc16 payload) <+: buf.toList := by
  have hreads := append_crc_reads hc hb hbuf payload.length le_rfl
  rw [List.take_length] at hreads
  have hops : appendCrcOps s payload.length payload =
      [.putTxByte payload.length (lo8 (crc16 payload)), .putTxByte (payload.length + 1) (hi8 (crc16 payload))] :=
    if_neg (Nat.lt_irrefl _)
  have hread : PollRun 1 [.appendCrc payload.length payload] s (appendCrcOps s payload.length payload) s :=
    .micro_quiet hc hb rfl rfl rfl
  rw [hops] at hread
  have hlow := prefix_set_end hbuf (by simp; omega) (lo8 (crc16 payload))
  have hhigh := prefix_set_end hlow (by simp; omega) (hi8 (crc16 payload))
  refine ⟨_, (hreads.trans hread).trans (m := 2) (.of_eval_quiet hc hb rfl rfl), ?_⟩
  simpa [dataBytes, putTx, Nat.add_comm] using hhigh

/-- The PID is toggled. -/
theorem PollRun.toggle {s : State} (hc : Calm s) (hb : s.env.bus = []) {pid : Byte} {payload : List Byte}
    (hbuf : pid :: payload <+: s.usb.txBuf.toList) :
    ∃ buf, PollRun 2 [.toggleTxPid] s [] { s with usb.txBuf := buf } ∧ (pid ^^^ 0x88) :: payload <+: buf.toList := by
  refine ⟨_, .of_eval_quiet hc hb rfl rfl, ?_⟩
  rw [head_of_prefix hbuf]
  exact prefix_set_head hbuf _

/-- The packet that S2 hands over, and the transfer's progress (R160, R161, R165, R166). -/
def State.refilled (s : State) (buf : Vector Byte Config.bufBytes) (k : Nat) : State :=
  { s with
    usb.txBuf := buf, usb.txLen := BitVec.ofNat 8 (k + 3)
    usb.txState := if k < 8 then .idle else s.usb.txState
    usb.txTotal := s.usb.txTotal - BitVec.ofNat 8 k
    poll.phase := .s3 }

theorem PollRun.end_if_short {s : State} (hc : Calm s) (hb : s.env.bus = []) (k : Nat) :
    PollRun 1 [.endIfShort k] s [] { s with usb.txState := if k < 8 then .idle else s.usb.txState } := by
  refine .micro_quiet hc hb rfl ?_ rfl
  by_cases hk : k < 8
  · simp only [microStep, done, Config.maxPayload, hk, if_true]
  · simp only [microStep, done, Config.maxPayload, hk, if_false]

theorem ofNat_packetLength_ne {k : Nat} (h : k ≤ 8) : BitVec.ofNat 8 (k + 3) ≠ 0 := by bv_omega

/-- While a packet waits there is no address to commit, and S2 ends (R167). -/
theorem PollRun.s2_end {s : State} (hc : Calm s) (hb : s.env.bus = []) (hlen : s.usb.txLen ≠ 0) :
    PollRun 2 [.addressCommit, .goto .s3] s [] { s with poll.phase := .s3 } := by
  have hops : addressCommitOps s = [] := if_neg (by simp only [commitDue, beq_eq_false_iff_ne.mpr hlen]; simp)
  have htest : PollRun 1 [.addressCommit] s (addressCommitOps s) s := .micro_quiet hc hb rfl rfl rfl
  rw [hops] at htest
  exact htest.seq (b := [.goto .s3]) (m := 1) (.of_eval_quiet hc hb rfl rfl)

/-- With the payload behind the PID, the packet is finished and handed over, and S2 ends: there is no address to commit
while a packet waits. -/
theorem PollRun.refill_end {s : State} (hc : Calm s) (hb : s.env.bus = []) {pid : Byte} {payload : List Byte}
    (hbuf : pid :: payload <+: s.usb.txBuf.toList) (hlen : payload.length ≤ 8) :
    ∃ buf, PollRun (payload.length + 10) (refillEndOps payload.length ++ [.addressCommit, .goto .s3]) s []
        (s.refilled buf payload.length) ∧
      buf.toList.take (payload.length + 3) = dataBytes (pid ^^^ 0x88) payload (crc16 payload) := by
  have hcalm : ∀ u : Usb, Calm { s with usb := u } := fun _ => ⟨hc.host, hc.latch, hc.active⟩
  have htotal : PollRun 1 [.subTotal payload.length] s []
      { s with usb.txTotal := s.usb.txTotal - BitVec.ofNat 8 payload.length } := .of_eval_quiet hc hb rfl rfl
  obtain ⟨buf₁, htoggle, hbuf₁⟩ := PollRun.toggle
    (s := { s with usb.txTotal := s.usb.txTotal - BitVec.ofNat 8 payload.length }) (hcalm _) hb hbuf
  obtain ⟨buf, hcrc, hbuf₂⟩ := PollRun.append_crc
    (s := { s with usb.txBuf := buf₁, usb.txTotal := s.usb.txTotal - BitVec.ofNat 8 payload.length }) (hcalm _) hb hbuf₁
    hlen
  have hshort := PollRun.end_if_short
    (s := { s with usb.txBuf := buf, usb.txTotal := s.usb.txTotal - BitVec.ofNat 8 payload.length }) (hcalm _) hb
    payload.length
  have hset : PollRun 1 [.setTxLen (BitVec.ofNat 8 (payload.length + 3))]
      { s with
        usb.txBuf := buf, usb.txTotal := s.usb.txTotal - BitVec.ofNat 8 payload.length
        usb.txState := if payload.length < 8 then .idle else s.usb.txState } []
      { s with
        usb.txBuf := buf, usb.txTotal := s.usb.txTotal - BitVec.ofNat 8 payload.length
        usb.txState := if payload.length < 8 then .idle else s.usb.txState
        usb.txLen := BitVec.ofNat 8 (payload.length + 3) } := .of_eval_quiet (hcalm _) hb rfl rfl
  have hend := PollRun.s2_end
    (s := { s with
      usb.txBuf := buf, usb.txTotal := s.usb.txTotal - BitVec.ofNat 8 payload.length
      usb.txState := if payload.length < 8 then .idle else s.usb.txState
      usb.txLen := BitVec.ofNat 8 (payload.length + 3) }) (hcalm _) hb (ofNat_packetLength_ne hlen)
  refine ⟨buf, ?_, ?_⟩
  · exact (htotal.seq (htoggle.seq (hcrc.seq (hshort.seq (hset.seq hend))))).of_count (by omega)
  · have htake := List.prefix_iff_eq_take.mp hbuf₂
    rw [dataBytes_length] at htake
    exact htake.symm

/-! ### RAM and ROM (R160, R162, R163) -/

theorem cursorAddr_toNat (s : State) (i : Nat) :
    (cursorAddr s i).toNat = (s.usb.txCursor.toNat + i) % 2 ^ Config.cursorBits := by
  simp [cursorAddr]

/-- The byte of the transfer's source i bytes after the cursor. -/
def sourceByte (s : State) (i : Nat) : Byte :=
  if s.usb.txState = .ram then ramByte s (cursorAddr s i) else romByte (cursorAddr s i)

/-- The step that copies a byte from the transfer's source. -/
def copyOp (s : State) : Nat → MicroOp := if s.usb.txState = .ram then .copyRam else .copyRom

theorem refillOps_memory {s : State} (h : s.usb.txState = .ram ∨ s.usb.txState = .rom) :
    refillOps s =
      (List.range (capacity s)).map (copyOp s) ++ [.advanceCursor (capacity s)] ++ refillEndOps (capacity s) := by
  rcases h with h | h <;> simp [refillOps, copyOp, h]

theorem PollRun.copy {s : State} (hc : Calm s) (hb : s.env.bus = []) (i : Nat) (buf : Vector Byte Config.bufBytes) :
    PollRun 2 [copyOp s i] { s with usb.txBuf := buf } []
      { s with usb.txBuf := buf.setIfInBounds (1 + i) (sourceByte s i) } := by
  have hc' : Calm { s with usb.txBuf := buf } := ⟨hc.host, hc.latch, hc.active⟩
  by_cases h : s.usb.txState = .ram
  · rw [copyOp, sourceByte, if_pos h, if_pos h]
    exact .of_eval_quiet hc' hb rfl rfl
  · rw [copyOp, sourceByte, if_neg h, if_neg h]
    exact .of_eval_quiet hc' hb rfl rfl

theorem s2TakeOps_refill {s : State} (hlen : s.usb.txLen = 0) (hactive : s.usb.txState ≠ .idle) :
    s2TakeOps s s.usb.txLen = refillOps s ++ [.addressCommit, .goto .s3] := by
  have hdue : refillDue s s.usb.txLen = true := by simp [refillDue, hlen, hactive]
  rw [s2TakeOps, hdue]
  rfl

/-- A refill from RAM or ROM and the end of S2. -/
theorem PollRun.refill_memory {s : State} (hc : Calm s) (hb : s.env.bus = [])
    (hsource : s.usb.txState = .ram ∨ s.usb.txState = .rom) :
    ∃ buf, PollRun (11 + 3 * capacity s) (refillOps s ++ [.addressCommit, .goto .s3]) s []
        ({ s with usb.txCursor := cursorAddr s (capacity s) }.refilled buf (capacity s)) ∧
      buf.toList.take (capacity s + 3) = dataBytes (s.usb.txBuf[0] ^^^ 0x88)
        ((List.range (capacity s)).map (sourceByte s)) (crc16 ((List.range (capacity s)).map (sourceByte s))) := by
  have hlen : ((List.range (capacity s)).map (sourceByte s)).length = capacity s := by simp
  have hk : capacity s ≤ 8 := capacity_le s
  obtain ⟨buf₀, hcopy, hbuf₀⟩ := PollRun.fill (PollRun.copy hc hb) (capacity s) (by omega)
  have hadvance : PollRun 1 [.advanceCursor (capacity s)] { s with usb.txBuf := buf₀ } []
      { s with usb.txBuf := buf₀, usb.txCursor := cursorAddr s (capacity s) } :=
    .of_eval_quiet ⟨hc.host, hc.latch, hc.active⟩ hb rfl rfl
  obtain ⟨buf, hend, hbuf⟩ := PollRun.refill_end
    (s := { s with usb.txBuf := buf₀, usb.txCursor := cursorAddr s (capacity s) }) ⟨hc.host, hc.latch, hc.active⟩ hb
    hbuf₀ (hlen.trans_le hk)
  rw [hlen] at hend hbuf
  refine ⟨buf, ?_, hbuf⟩
  rw [refillOps_memory hsource, List.append_assoc]
  exact ((hcopy.seq hadvance).seq hend).of_count (by omega)

/-- Settles O49: after S2's snapshot the bytes are copied behind the PID, then the packet is finished. -/
theorem refillFromMemory : Obligations.RefillFromMemory := by
  intro s h hlen hsource
  have hidle : s.usb.txState ≠ .idle := by rcases hsource with hs | hs <;> rw [hs] <;> decide
  have hbytes : (List.range (capacity s)).map (sourceByte s) = (List.range (min 8 s.usb.txTotal.toNat)).map fun i =>
      if s.usb.txState = .ram then s.ram.read ((s.usb.txCursor.toNat + i) % 2 ^ Config.cursorBits)
      else Config.rom ((s.usb.txCursor.toNat + i) % 2 ^ Config.cursorBits) := by
    simp only [← cursorAddr_toNat]
    rfl
  obtain ⟨buf, hrun, hbuf⟩ := PollRun.refill_memory (s := { s with irq.enable := true }) (Calm.of_atPhase h) h.2.1
    hsource
  refine ⟨buf, ?_, hbytes ▸ hbuf⟩
  have htake : PollRun (11 + 3 * capacity s) (s2TakeOps s s.usb.txLen)
      { s with irq.enable := true, env := Env.next^[4] s.env } []
      (({ s with irq.enable := true, usb.txCursor := cursorAddr s (capacity s) } : State).refilled buf (capacity s)) := by
    rw [s2TakeOps_refill hlen hidle, Env.iterate_of_quiet h.2.1]
    exact hrun
  have hsteps := steps_s2 h htake h.2.2.2.2.2
  rw [show 11 + 3 * capacity s + 4 = 15 + 3 * capacity s by omega] at hsteps
  exact hsteps

end Sys2Proof.Machine

/-! The I2C master's commands as POLL issues them: what each does to the lines while the bus agent makes its choices and
stretches no clock, and what it puts on the bus (R116, R270 to R284). -/

namespace Sys2Proof.Machine

/-! ### What a history puts on the bus (R116) -/

/-- A history, newest event first, that leads from one level of the lines to another, with the bits it clocks out and the
bus conditions it makes. -/
structure Emits (sda scl : Bool) (log : List BusEvent) (sda' scl' : Bool) (bits : List Bool) (conds : List Condition) :
    Prop where
  bits  : ∀ more, clockedBits scl (log.reverse ++ more) = bits ++ clockedBits scl' more
  conds : ∀ more, busConditions sda scl (log.reverse ++ more) = conds ++ busConditions sda' scl' more

theorem Emits.nil (sda scl : Bool) : Emits sda scl [] sda scl [] [] := ⟨fun _ => rfl, fun _ => rfl⟩

theorem Emits.trans {sda scl sda₁ scl₁ sda₂ scl₂ : Bool} {log log' : List BusEvent} {bits bits' : List Bool}
    {conds conds' : List Condition} (h : Emits sda scl log sda₁ scl₁ bits conds)
    (h' : Emits sda₁ scl₁ log' sda₂ scl₂ bits' conds') :
    Emits sda scl (log' ++ log) sda₂ scl₂ (bits ++ bits') (conds ++ conds') where
  bits more := by rw [List.reverse_append, List.append_assoc, h.bits, h'.bits, List.append_assoc]
  conds more := by rw [List.reverse_append, List.append_assoc, h.conds, h'.conds, List.append_assoc]

theorem Emits.clockedBits_eq {sda scl sda' scl' : Bool} {log : List BusEvent} {bits : List Bool} {conds : List Condition}
    (h : Emits sda scl log sda' scl' bits conds) : clockedBits scl log.reverse = bits := by
  simpa [clockedBits] using h.bits []

theorem Emits.busConditions_eq {sda scl sda' scl' : Bool} {log : List BusEvent} {bits : List Bool}
    {conds : List Condition} (h : Emits sda scl log sda' scl' bits conds) : busConditions sda scl log.reverse = conds := by
  simpa [busConditions] using h.conds []

/-! ### The lines (R270, R271) -/

/-- What the master lets its lines be, and what its last WRITE and READ gave. -/
structure Lines where
  sda  : Bool
  scl  : Bool
  ack  : Bool
  byte : Byte

/-- The master's state with these lines: a line is driven low or released, never driven high (R271). -/
def Lines.pins (q : Lines) (log : List BusEvent) : Pins where
  sdaDir := if q.sda then .input else .output
  sclDir := if q.scl then .input else .output
  sdaOut := false
  sclOut := false
  ack := q.ack
  byte := q.byte
  log := log

/-- The lines of a state. -/
def Pins.lines (p : Pins) : Lines := ⟨released p .sda, released p .scl, p.ack, p.byte⟩

theorem Pins.eq_lines {p : Pins} (hsda : p.sdaOut = false) (hscl : p.sclOut = false) : p = p.lines.pins p.log := by
  obtain ⟨sdaDir, sclDir, sdaOut, sclOut, ack, byte, log⟩ := p
  cases hsda
  cases hscl
  cases sdaDir <;> cases sclDir <;> rfl

theorem Pins.lines_scl_of_output {p : Pins} (hout : p.sclOut = false) (hdir : p.sclDir = .output) :
    p.lines.scl = false := by
  simp [lines, released, lineDir, lineOut, hout, hdir]

/-! ### Steps that act on the lines -/

/-- POLL's steps that act on the I2C master's lines alone. -/
def MicroOp.ofLine : MicroOp → Bool
  | .setDirection _ _ | .setLine _ _ | .delay _ | .waitScl | .sampleAck | .clearByte | .sampleBit _ => true
  | _ => false

theorem microStep_line {op : MicroOp} {s t : State} {more : List MicroOp} (hop : op.ofLine = true)
    (h : microStep op s = .go more t) : more = [] ∧ t = { s with pins := t.pins } := by
  cases op
  case setDirection l m => cases h; cases l <;> exact ⟨rfl, rfl⟩
  case setLine l v => cases h; cases l <;> exact ⟨rfl, rfl⟩
  case waitScl => simp only [microStep] at h; split at h <;> cases h; exact ⟨rfl, rfl⟩
  all_goals cases hop <;> cases h <;> exact ⟨rfl, rfl⟩

/-- Steps on the lines, one after the other, the bus agent making a choice after each; none where one of them waits. -/
def lineRun : List MicroOp → State → Option State
  | [], s => some s
  | op :: ops, s =>
    match microStep op s with
    | .go _ t => lineRun ops { t with env := t.env.next }
    | _ => none

theorem lineRun_append (a b : List MicroOp) (s : State) : lineRun (a ++ b) s = (lineRun a s).bind (lineRun b) := by
  induction a generalizing s with
  | nil => rfl
  | cons op a ih =>
    simp only [List.cons_append, lineRun]
    split
    · exact ih _
    · rfl

/-- What the steps come to on the lines, an operation made of them comes to. -/
theorem runOps_of_lineRun {n : Nat} {ops : List MicroOp} {s t : State} (hhost : s.env.host = [])
    (hi : interruptDue s = false) (hops : ops.all MicroOp.ofLine = true) (hn : ops.length ≤ n)
    (h : lineRun ops s = some t) (cont : List MicroOp) :
    runOps n ops { s with poll.cont := cont } = .next { t with poll.cont := cont } := by
  induction ops generalizing n s with
  | nil => cases h; rw [runOps_nil]
  | cons op ops ih =>
    obtain ⟨m, rfl⟩ : ∃ m, n = m + 1 := Nat.exists_eq_succ_of_ne_zero (by simp at hn; omega)
    obtain ⟨hop, hrest⟩ := Bool.and_eq_true_iff.mp hops
    simp only [lineRun] at h
    split at h
    · next more u hm =>
      obtain ⟨rfl, hu⟩ := microStep_line hop hm
      have hhost' : u.env.host = [] := by rw [hu]; exact hhost
      have hi' : interruptDue { s with poll.cont := cont } = false := hi
      have hirq : u.irq = s.irq := by rw [hu]
      have hmove : tick { u with poll.cont := cont } = { u with poll.cont := cont, env := u.env.next } :=
        tick_eq_next hhost'
      rw [runOps_go hi' (microStep_withCont hm cont), hmove]
      exact ih (s := { u with env := u.env.next }) (by rw [Env.next_host]; exact hhost')
        (by simp only [interruptDue, hirq]; exact hi) hrest (Nat.le_of_succ_le_succ hn) h
    · cases h

/-- A command that POLL issues to the sequencer is one step of the machine. -/
theorem PollRun.command {w : BitVec 11} {ops : List MicroOp} {s t : State} (hc : Calm s) (hw : i2cCmdOps w = some ops)
    (hops : ops.all MicroOp.ofLine = true) (hn : ops.length ≤ opFuel) (h : lineRun ops s = some t) :
    PollRun 1 [.i2cCmd w] s [] t := fun rest => by
  have hstep : step { s with poll.cont := .i2cCmd w :: rest } = runInstr ops { s with poll.cont := rest } :=
    step_i2cCmd (a := { s with poll.cont := .i2cCmd w :: rest }) hc.active hc.not_due rfl hw
  exact steps_succ (n := 0) (hstep.trans (runOps_of_lineRun hc.host hc.not_due hops hn h rest))

/-! ### What the steps do to the lines -/

/-- No choice of the bus agent stretches the clock (R273). -/
def Env.NoStretch (e : Env) : Prop := e.sclLow = false ∧ ∀ d ∈ e.bus, d.sclLow = false

theorem Env.NoStretch.next {e : Env} (h : e.NoStretch) : e.next.NoStretch := by
  obtain ⟨hlow, hbus⟩ := h
  unfold Env.next
  split
  · exact ⟨hlow, hbus⟩
  · next d rest hd =>
    rw [hd] at hbus
    exact ⟨hbus d (.head _), fun d' hd' => hbus d' (.tail _ hd')⟩

theorem Env.NoStretch.iterate {e : Env} (h : e.NoStretch) (n : Nat) : (Env.next^[n] e).NoStretch := by
  induction n generalizing e with
  | zero => exact h
  | succ n ih => exact ih h.next

/-- In every world around them these steps lead from one level of the lines to another, a choice of the bus agent coming
after each, and put these bits and conditions on the bus. -/
def LineRun (ops : List MicroOp) (b : Bridge) (e : Env) (q q' : Lines) (bits : List Bool) (conds : List Condition) : Prop :=
  ∃ log, Emits q.sda q.scl log q'.sda q'.scl bits conds ∧
    ∀ (s : State) (log₀ : List BusEvent), s.bridge = b →
      lineRun ops { s with pins := q.pins log₀, env := e } =
        some { s with pins := q'.pins (log ++ log₀), env := Env.next^[ops.length] e }

theorem LineRun.nil (b : Bridge) (e : Env) (q : Lines) : LineRun [] b e q q [] [] :=
  ⟨[], .nil _ _, fun _ _ _ => rfl⟩

theorem LineRun.append {a c : List MicroOp} {b : Bridge} {e : Env} {q q₁ q₂ : Lines} {bits bits' : List Bool}
    {conds conds' : List Condition} (h : LineRun a b e q q₁ bits conds)
    (h' : LineRun c b (Env.next^[a.length] e) q₁ q₂ bits' conds') :
    LineRun (a ++ c) b e q q₂ (bits ++ bits') (conds ++ conds') := by
  obtain ⟨log, hlog, hrun⟩ := h
  obtain ⟨log', hlog', hrun'⟩ := h'
  refine ⟨log' ++ log, hlog.trans hlog', fun s log₀ hs => ?_⟩
  rw [lineRun_append, hrun s log₀ hs, Option.bind_some, hrun' s _ hs, List.length_append, Nat.add_comm,
    Function.iterate_add_apply, List.append_assoc]

/-- `set_sda` with SCL low: a change of SDA is no bus condition (R285). -/
theorem LineRun.setSda_low (b : Bridge) (e : Env) {q : Lines} (hscl : q.scl = false) (v : Bool) :
    LineRun (setSda v) b e q { q with sda := v } [] [] := by
  obtain ⟨sda, scl, ack, byte⟩ := q
  cases hscl
  cases v <;> cases sda
  case true.true | false.false => exact ⟨[], .nil _ _, fun s _ _ => rfl⟩
  case true.false => exact ⟨[.drive true false], ⟨fun _ => rfl, fun _ => rfl⟩, fun s _ _ => rfl⟩
  case false.true => exact ⟨[.drive false false], ⟨fun _ => rfl, fun _ => rfl⟩, fun s _ _ => rfl⟩

/-- The release of SDA that makes a STOP (R282). -/
theorem LineRun.release_sda_high (b : Bridge) (e : Env) {q : Lines} (hscl : q.scl = true) (hsda : q.sda = false) :
    LineRun (release .sda) b e q { q with sda := true } [] [.stop] := by
  obtain ⟨sda, scl, ack, byte⟩ := q
  cases hscl
  cases hsda
  exact ⟨[.drive true true], ⟨fun _ => rfl, fun _ => rfl⟩, fun s _ _ => rfl⟩

theorem LineRun.delay (b : Bridge) (e : Env) (q : Lines) (d : DelayKind) : LineRun [.delay d] b e q q [] [] := by
  cases d
  · exact ⟨[.delay b.fullDelay], ⟨fun _ => rfl, fun _ => rfl⟩, fun s _ hs => hs ▸ rfl⟩
  · exact ⟨[.delay b.halfDelay], ⟨fun _ => rfl, fun _ => rfl⟩, fun s _ hs => hs ▸ rfl⟩

/-- The release of SCL clocks out what SDA is (R116). -/
theorem LineRun.release_scl (b : Bridge) (e : Env) {q : Lines} (hscl : q.scl = false) :
    LineRun (release .scl) b e q { q with scl := true } [q.sda] [] := by
  obtain ⟨sda, scl, ack, byte⟩ := q
  cases hscl
  cases sda
  · exact ⟨[.drive false true], ⟨fun _ => rfl, fun _ => rfl⟩, fun s _ _ => rfl⟩
  · exact ⟨[.drive true true], ⟨fun _ => rfl, fun _ => rfl⟩, fun s _ _ => rfl⟩

theorem readLine_lines (s : State) (q : Lines) (log : List BusEvent) (e : Env) (l : I2cLine) :
    readLine { s with pins := q.pins log, env := e } (.i2c l) =
      ((match l with | .sda => q.sda | .scl => q.scl) && !extLow e l) := by
  obtain ⟨sda, scl, ack, byte⟩ := q
  cases l
  · cases sda <;> rfl
  · cases scl <;> rfl

/-- The clock-stretch wait does not hold where nothing holds SCL low (R273). -/
theorem LineRun.waitScl (b : Bridge) {e : Env} {q : Lines} (he : e.sclLow = false) (hscl : q.scl = true) :
    LineRun [.waitScl] b e q q [] [] := by
  refine ⟨[], .nil _ _, fun s log₀ _ => ?_⟩
  have hread : readLine { s with pins := q.pins log₀, env := e } (.i2c .scl) = true := by
    rw [readLine_lines]
    simp only [hscl, extLow, he]
    rfl
  simp only [lineRun, microStep, hread, if_true]
  rfl

/-- The ninth bit's sample (R283). -/
theorem LineRun.sampleAck (b : Bridge) (e : Env) (q : Lines) :
    LineRun [.sampleAck] b e q { q with ack := !(q.sda && !e.sdaLow) } [] [] := by
  refine ⟨[], .nil _ _, fun s log₀ _ => ?_⟩
  simp only [lineRun, microStep, done, readLine_lines, extLow]
  rfl

/-- The sample of a bit (R284). -/
theorem LineRun.sampleBit (b : Bridge) (e : Env) (q : Lines) (i : Nat) :
    LineRun [.sampleBit i] b e q { q with byte := withBit q.byte i (q.sda && !e.sdaLow) } [] [] := by
  refine ⟨[], .nil _ _, fun s log₀ _ => ?_⟩
  simp only [lineRun, microStep, done, readLine_lines, extLow]
  rfl

theorem LineRun.clearByte (b : Bridge) (e : Env) (q : Lines) :
    LineRun [.clearByte] b e q { q with byte := 0 } [] [] := ⟨[], .nil _ _, fun _ _ _ => rfl⟩

/-- `scl_high` from SCL low clocks out a bit (R116, R273). -/
theorem LineRun.sclHigh {b : Bridge} {e : Env} {q : Lines} (he : e.NoStretch) (hscl : q.scl = false) :
    LineRun sclHigh b e q { q with scl := true } [q.sda] [] :=
  (release_scl b e hscl).append ((delay b _ _ .half).append (waitScl b (he.iterate 2).1 rfl))

theorem LineRun.sclLow (b : Bridge) (e : Env) {q : Lines} (hscl : q.scl = true) :
    LineRun sclLow b e q { q with scl := false } [] [] := by
  obtain ⟨sda, scl, ack, byte⟩ := q
  cases hscl
  cases sda
  · exact ⟨[.delay b.halfDelay, .drive false false], ⟨fun _ => rfl, fun _ => rfl⟩, fun s _ hs => hs ▸ rfl⟩
  · exact ⟨[.delay b.halfDelay, .drive true false], ⟨fun _ => rfl, fun _ => rfl⟩, fun s _ hs => hs ▸ rfl⟩

/-- `pulse` clocks out what SDA is (R273). -/
theorem LineRun.pulse {b : Bridge} {e : Env} {q : Lines} (he : e.NoStretch) (hscl : q.scl = false) :
    LineRun pulse b e q q [q.sda] [] := by
  have hrun := ((sclHigh (b := b) he hscl).append (delay b _ _ .full)).append (sclLow b _ rfl)
  have hback : ({ { q with scl := true } with scl := false } : Lines) = q := by rw [← hscl]
  rwa [hback] at hrun

/-! ### WRITE and STOP (R282, R283) -/

theorem writeBitOps_ofLine (v : Bool) : (writeBitOps v).all MicroOp.ofLine = true := by cases v <;> rfl

theorem writeOps_ofLine (data : Byte) : (writeOps data).all MicroOp.ofLine = true := by
  simp only [writeOps, msbFirst, List.flatMap_cons, List.flatMap_nil, List.all_append, writeBitOps_ofLine]
  rfl

theorem writeBitOps_length (v : Bool) : (writeBitOps v).length ≤ 10 := by cases v <;> decide

theorem writeOps_length (data : Byte) : (writeOps data).length ≤ 89 := by
  have hbits : ∀ is : List Nat, (is.flatMap fun i => writeBitOps (data.getLsbD i)).length ≤ 10 * is.length := by
    intro is
    induction is with
    | nil => exact le_rfl
    | cons i is ih =>
      have hbit := writeBitOps_length (data.getLsbD i)
      rw [List.flatMap_cons, List.length_append, List.length_cons]
      omega
  have hmsb : msbFirst.length = 8 := rfl
  have hack : (release .sda ++ sclHigh ++ [MicroOp.sampleAck, .delay .full] ++ sclLow).length = 9 := rfl
  have hsum := hbits msbFirst
  simp only [writeOps, List.length_append] at hack ⊢
  omega

theorem LineRun.writeBit {b : Bridge} {e : Env} {q : Lines} (he : e.NoStretch) (hscl : q.scl = false) (v : Bool) :
    LineRun (writeBitOps v) b e q { q with sda := v } [v] [] :=
  ((setSda_low b e hscl v).append (delay b _ _ .half)).append (pulse (he.iterate _) hscl)

/-- Bits written one after the other. -/
theorem LineRun.writeBits {b : Bridge} (data : Byte) : ∀ (is : List Nat) {e : Env} {q : Lines}, e.NoStretch →
    q.scl = false → ∃ sda, LineRun (is.flatMap fun i => writeBitOps (data.getLsbD i)) b e q { q with sda := sda }
      (is.map data.getLsbD) []
  | [], _, q, _, _ => ⟨q.sda, .nil _ _ _⟩
  | i :: is, e, q, he, hscl => by
    have hbit := writeBit (b := b) he hscl (data.getLsbD i)
    obtain ⟨sda, hrest⟩ := writeBits (b := b) data is (q := { q with sda := data.getLsbD i }) (he.iterate _) hscl
    exact ⟨sda, hbit.append hrest⟩

/-- `i2c_write`: the byte, most significant bit first, then a released SDA in whose clock the slave acknowledges. -/
theorem LineRun.write {b : Bridge} {e : Env} {q : Lines} (hbus : e.bus = []) (hlow : e.sclLow = false)
    (hscl : q.scl = false) (data : Byte) :
    LineRun (writeOps data) b e q { q with sda := true, ack := e.sdaLow } (bitsMsbFirst data ++ [true]) [] := by
  have hquiet : ∀ n, Env.next^[n] e = e := Env.iterate_of_quiet hbus
  have he : e.NoStretch := ⟨hlow, by rw [hbus]; nofun⟩
  obtain ⟨sda, hbits⟩ := writeBits (b := b) data msbFirst he hscl
  have hrun := (((hbits.append (setSda_low b _ (q := { q with sda := sda }) hscl true)).append
    (sclHigh (he.iterate _) hscl)).append ((sampleAck b _ _).append (delay b _ _ .full))).append (sclLow b _ rfl)
  have hend : ({ q with sda := true, scl := false, ack := !(true && !e.sdaLow) } : Lines) =
      { q with sda := true, ack := e.sdaLow } := by simp [hscl]
  rw [← hend]
  simp only [hquiet] at hrun
  exact hrun

/-- `i2c_stop` from SCL low: a 0 is clocked out, then SDA rises while SCL is high. -/
theorem LineRun.stop {b : Bridge} {e : Env} {q : Lines} (he : e.NoStretch) (hscl : q.scl = false) :
    LineRun stopOps b e q { q with sda := true, scl := true } [false] [.stop] := by
  have hrun := ((((setSda_low b e hscl false).append (delay b _ _ .half)).append
    (sclHigh (he.iterate _) hscl)).append (delay b _ _ .half)).append
      ((release_sda_high b _ rfl rfl).append (delay b _ _ .half))
  exact hrun

/-! ### READ (R284) -/

theorem LineRun.readBit {b : Bridge} {e : Env} {q : Lines} (he : e.NoStretch) (hscl : q.scl = false) (i : Nat) :
    LineRun (readBitOps i) b e q { q with byte := withBit q.byte i (q.sda && !(Env.next^[3] e).sdaLow) } [q.sda] [] := by
  have hrun := ((sclHigh (b := b) he hscl).append ((sampleBit b _ _ i).append (delay b _ _ .full))).append
    (sclLow b _ rfl)
  have hend : ({ q with scl := false, byte := withBit q.byte i (q.sda && !(Env.next^[3] e).sdaLow) } : Lines) =
      { q with byte := withBit q.byte i (q.sda && !(Env.next^[3] e).sdaLow) } := by simp [hscl]
  rw [← hend]
  exact hrun

/-- A byte after its bits at these positions are sampled, each in the middle of eight steps. -/
def sampled (sda : Bool) : Env → Byte → List Nat → Byte
  | _, data, [] => data
  | e, data, i :: is => sampled sda (Env.next^[8] e) (withBit data i (sda && !(Env.next^[3] e).sdaLow)) is

theorem LineRun.readBits {b : Bridge} : ∀ (is : List Nat) {e : Env} {q : Lines}, e.NoStretch → q.scl = false →
    LineRun (is.flatMap readBitOps) b e q { q with byte := sampled q.sda e q.byte is } (is.map fun _ => q.sda) []
  | [], _, _, _, _ => .nil _ _ _
  | i :: is, e, q, he, hscl => by
    have hrest := readBits (b := b) is (e := Env.next^[8] e)
      (q := { q with byte := withBit q.byte i (q.sda && !(Env.next^[3] e).sdaLow) }) (he.iterate 8) hscl
    exact (readBit he hscl i).append hrest

/-- `i2c_read`: eight bits with SDA released, then the acknowledge. -/
theorem LineRun.read {b : Bridge} {e : Env} {q : Lines} (he : e.NoStretch) (hscl : q.scl = false) (last : Bool) :
    LineRun (readOps last) b e q { q with sda := last, byte := sampled true (Env.next^[2] e) 0 msbFirst }
      (List.replicate 8 true ++ [last]) [] := by
  have hclear := (setSda_low b e hscl true).append (clearByte b (Env.next^[1] e) _)
  have hbits := readBits (b := b) msbFirst (q := { q with sda := true, byte := 0 }) (he.iterate 2) hscl
  have hack := (hclear.append hbits).append (setSda_low b _ (by exact hscl) last)
  exact hack.append (pulse (he.iterate _) hscl)

/-! ### Commands as steps of POLL -/

/-- A command of which the effect on the lines is known, issued by POLL. -/
theorem PollRun.of_lineRun {w : BitVec 11} {ops : List MicroOp} {s : State} {q q' : Lines} {log₀ : List BusEvent}
    {bits : List Bool} {conds : List Condition} (hc : Calm s) (hs : s.pins = q.pins log₀) (hw : i2cCmdOps w = some ops)
    (hops : ops.all MicroOp.ofLine = true) (hn : ops.length ≤ opFuel)
    (h : LineRun ops s.bridge s.env q q' bits conds) :
    ∃ log, PollRun 1 [.i2cCmd w] s [] { s with pins := q'.pins (log ++ log₀), env := Env.next^[ops.length] s.env } ∧
      Emits q.sda q.scl log q'.sda q'.scl bits conds := by
  obtain ⟨log, hlog, hrun⟩ := h
  have hline := hrun s log₀ rfl
  rw [← hs] at hline
  exact ⟨log, .command hc hw hops hn hline, hlog⟩

/-- POLL writes a byte. -/
theorem PollRun.write {s : State} {q : Lines} {log₀ : List BusEvent} (hc : Calm s) (hb : s.env.bus = [])
    (hlow : s.env.sclLow = false) (hs : s.pins = q.pins log₀) (hscl : q.scl = false) (data : Byte) :
    ∃ log, PollRun 1 [.i2cCmd (writeWord data)] s []
        { s with pins := ({ q with sda := true, ack := s.env.sdaLow } : Lines).pins (log ++ log₀) } ∧
      Emits q.sda q.scl log true q.scl (bitsMsbFirst data ++ [true]) [] := by
  have hrun := PollRun.of_lineRun hc hs (i2cCmdOps_write data) (writeOps_ofLine data)
    ((writeOps_length data).trans (by decide)) (.write hb hlow hscl data)
  rwa [Env.iterate_of_quiet hb] at hrun

/-- The end flag's stop is due after a callback exactly where that brought the counter to its end (R247, R251). -/
theorem stopDue_of_moved {s : State} {remaining : Half} {moved : Nat} (hpos : 0 < moved) (hle : moved ≤ remaining.toNat)
    (h : s.bridge.remaining = remaining - BitVec.ofNat 16 moved) :
    stopDue s moved = (decide (remaining.toNat = moved) && s.bridge.endFlag) := by
  have hzero : (remaining - BitVec.ofNat 16 moved == 0) = decide (remaining.toNat = moved) := by
    rw [Bool.eq_iff_iff, beq_iff_eq, decide_eq_true_iff]
    bv_omega
  rw [stopDue, h, hzero, decide_eq_true hpos, Bool.true_and]

/-- The lines after the stop that ends a callback, where it is due: both released (R247, R251, R282). -/
def Lines.stopped (q : Lines) (due : Bool) : Lines := { q with sda := q.sda || due, scl := q.scl || due }

/-- The stop that ends a callback, where it is due (R247, R251). -/
theorem PollRun.stop_if_done {s : State} {q : Lines} {log₀ : List BusEvent} (hc : Calm s) (hb : s.env.bus = [])
    (hlow : s.env.sclLow = false) (hs : s.pins = q.pins log₀) (hscl : q.scl = false) (moved : Nat) :
    ∃ n log, PollRun n [.stopIfDone moved] s []
        { s with pins := (q.stopped (stopDue s moved)).pins (log ++ log₀) } ∧
      Emits q.sda q.scl log (q.stopped (stopDue s moved)).sda (q.stopped (stopDue s moved)).scl
        (if stopDue s moved then [false] else []) (if stopDue s moved then [.stop] else []) := by
  have htest : PollRun 1 [.stopIfDone moved] s (if stopDue s moved then [.i2cCmd stopWord] else []) s :=
    .micro_quiet hc hb rfl rfl rfl
  cases hdue : stopDue s moved with
  | false =>
    rw [hdue] at htest
    have hlines : q.stopped false = q := by simp [Lines.stopped]
    rw [hlines]
    exact ⟨1, [], by rwa [List.nil_append, ← hs], .nil _ _⟩
  | true =>
    rw [hdue] at htest
    obtain ⟨log, hstop, hlog⟩ := PollRun.of_lineRun hc hs i2cCmdOps_stop rfl (by decide)
      (.stop ⟨hlow, by rw [hb]; nofun⟩ hscl)
    rw [Env.iterate_of_quiet hb] at hstop
    have hlines : q.stopped true = { q with sda := true, scl := true } := by simp [Lines.stopped]
    rw [hlines]
    exact ⟨1 + 1, log, htest.trans hstop, hlog⟩

end Sys2Proof.Machine

/-! The write callback: an OUT payload goes to the I2C bus byte after byte, or is dropped (R153, R250 to R254; O48). -/

namespace Sys2Proof.Machine

/-! ### The write callback's loop -/

/-- The lines after d bytes are written: SDA released in the last acknowledge, which is the slave's choice (R283). -/
def Lines.written (q : Lines) (ack : Bool) (d : Nat) : Lines := if d = 0 then q else { q with sda := true, ack := ack }

/-- A state after d bytes are written from these lines: the counter fell by as many, and a byte that was not acknowledged
sets the write-failure flag (R251, R252). -/
def State.wroteBytes (s : State) (q : Lines) (log : List BusEvent) (d : Nat) : State :=
  { s with
    pins := (q.written s.env.sdaLow d).pins log
    bridge.remaining := s.bridge.remaining - BitVec.ofNat 16 d
    bridge.writeFail := s.bridge.writeFail || (decide (0 < d) && !s.env.sdaLow) }

theorem State.wroteBytes_zero {s : State} {q : Lines} {log : List BusEvent} (hs : s.pins = q.pins log) :
    s.wroteBytes q log 0 = s := by
  simp [wroteBytes, Lines.written, ← hs]

theorem State.wroteBytes_succ (s : State) (q : Lines) (log log' : List BusEvent) (d : Nat) :
    (s.wroteBytes q log 1).wroteBytes (q.written s.env.sdaLow 1) log' d = s.wroteBytes q log' (d + 1) := by
  have hremaining : s.bridge.remaining - 1#16 - BitVec.ofNat 16 d =
      s.bridge.remaining - BitVec.ofNat 16 (d + 1) := by bv_omega
  cases d <;> simp [wroteBytes, Lines.written, hremaining]

theorem PollRun.note_write_ack {s : State} (hc : Calm s) (hb : s.env.bus = []) :
    PollRun 1 [.noteWriteAck] s [] { s with bridge.writeFail := s.bridge.writeFail || !s.pins.ack } := by
  refine .micro_quiet hc hb rfl ?_ rfl
  cases hack : s.pins.ack <;> simp [microStep, done, hack]

/-- One round of the loop, with payload and counter not at their end (R250, R251, R252). -/
theorem PollRun.write_byte {s : State} {q : Lines} {log₀ : List BusEvent} (hc : Calm s) (hb : s.env.bus = [])
    (hlow : s.env.sclLow = false) (hs : s.pins = q.pins log₀) (hscl : q.scl = false) (k : Bool) {m j : Nat} (hj : j < m)
    (hremaining : s.bridge.remaining ≠ 0) :
    ∃ log, PollRun 4 [.writeLoop k m j] s [.writeLoop k m (j + 1)] (s.wroteBytes q (log ++ log₀) 1) ∧
      Emits q.sda q.scl log true q.scl (bitsMsbFirst (payloadByte (rxBuf s k) j) ++ [true]) [] := by
  have htest : PollRun 1 [.writeLoop k m j] s (writeLoopOps s k m j) s := .micro_quiet hc hb rfl rfl rfl
  rw [writeLoopOps, if_pos ⟨hj, hremaining⟩] at htest
  obtain ⟨log, hwrite, hlog⟩ := PollRun.write hc hb hlow hs hscl (payloadByte (rxBuf s k) j)
  have hnote := PollRun.note_write_ack
    (s := { s with pins := ({ q with sda := true, ack := s.env.sdaLow } : Lines).pins (log ++ log₀) })
    ⟨hc.host, hc.latch, hc.active⟩ hb
  have hdec : PollRun 1 [.decRemaining]
      { s with
        pins := ({ q with sda := true, ack := s.env.sdaLow } : Lines).pins (log ++ log₀)
        bridge.writeFail := s.bridge.writeFail || !s.env.sdaLow } [] (s.wroteBytes q (log ++ log₀) 1) :=
    .micro_quiet ⟨hc.host, hc.latch, hc.active⟩ hb rfl rfl rfl
  exact ⟨log, (htest.trans ((hwrite.seq (hnote.seq hdec)).append [.writeLoop k m (j + 1)])).of_count rfl, hlog⟩

/-- The loop from byte j on writes a byte each round until the payload or the counter ends. -/
theorem PollRun.write_loop (k : Bool) (m : Nat) : ∀ (d j : Nat) {s : State} {q : Lines} {log₀ : List BusEvent}, Calm s →
    s.env.bus = [] → s.env.sclLow = false → s.pins = q.pins log₀ → q.scl = false → d = min (m - j) s.bridge.remaining.toNat →
    ∃ n log, PollRun n [.writeLoop k m j] s [.stopIfDone (j + d)] (s.wroteBytes q (log ++ log₀) d) ∧
      Emits q.sda q.scl log (q.written s.env.sdaLow d).sda q.scl
        ((List.range' j d).flatMap fun i => bitsMsbFirst (payloadByte (rxBuf s k) i) ++ [true]) []
  | 0, j, s, q, log₀, hc, hb, hlow, hs, hscl, hd => by
    have hdone : ¬ (j < m ∧ s.bridge.remaining ≠ 0) := by
      rintro ⟨hj, hremaining⟩
      have : s.bridge.remaining.toNat ≠ 0 := fun h => hremaining (BitVec.eq_of_toNat_eq h)
      omega
    have htest : PollRun 1 [.writeLoop k m j] s (writeLoopOps s k m j) s := .micro_quiet hc hb rfl rfl rfl
    rw [writeLoopOps, if_neg hdone] at htest
    exact ⟨1, [], by rwa [List.nil_append, State.wroteBytes_zero hs], .nil _ _⟩
  | d + 1, j, s, q, log₀, hc, hb, hlow, hs, hscl, hd => by
    have hremaining : s.bridge.remaining ≠ 0 := by
      intro h
      rw [h] at hd
      exact absurd hd (by simp)
    obtain ⟨log, hbyte, hlog⟩ := PollRun.write_byte hc hb hlow hs hscl k (m := m) (j := j) (by omega) hremaining
    obtain ⟨n, log', hloop, hlog'⟩ := PollRun.write_loop k m d (j + 1) (s := s.wroteBytes q (log ++ log₀) 1)
      (q := q.written s.env.sdaLow 1) ⟨hc.host, hc.latch, hc.active⟩ hb hlow rfl hscl
      (by simp only [State.wroteBytes]; bv_omega)
    rw [State.wroteBytes_succ, ← List.append_assoc, Nat.add_right_comm, Nat.add_assoc] at hloop
    refine ⟨4 + n, log' ++ log, hbyte.trans hloop, ?_⟩
    rw [List.range'_succ, List.flatMap_cons]
    have hsda : ((q.written s.env.sdaLow 1).written s.env.sdaLow d).sda = (q.written s.env.sdaLow (d + 1)).sda := by
      cases d <;> rfl
    exact hlog.trans (hsda ▸ hlog')

/-! ### The write callback (R250 to R254) -/

/-- Where no byte may go out, the payload is dropped and nothing reaches the bus. -/
theorem PollRun.write_callback_drop {s : State} (hc : Calm s) (hb : s.env.bus = []) (k : Bool) (m : Nat)
    (h : s.bridge.status = .addressAcked → s.bridge.remaining = 0) : ∃ n, PollRun n [.writeCallback k m] s [] s := by
  have htest : PollRun 1 [.writeCallback k m] s (writeCallbackOps s k m) s := .micro_quiet hc hb rfl rfl rfl
  by_cases hacked : s.bridge.status = .addressAcked
  · have hloop : PollRun 1 [.writeLoop k m 0] s (writeLoopOps s k m 0) s := .micro_quiet hc hb rfl rfl rfl
    rw [writeLoopOps, if_neg fun hnot => hnot.2 (h hacked)] at hloop
    have hstop : PollRun 1 [.stopIfDone 0] s [] s := .micro_quiet hc hb rfl rfl rfl
    rw [writeCallbackOps, if_pos hacked] at htest
    exact ⟨_, (htest.trans hloop).trans hstop⟩
  · rw [writeCallbackOps, if_neg hacked] at htest
    exact ⟨1, htest⟩

/-- Where bytes may go out, the callback writes them, then makes the stop where it is due. -/
theorem PollRun.write_callback {s : State} {q : Lines} {log₀ : List BusEvent} (hc : Calm s) (hb : s.env.bus = [])
    (hlow : s.env.sclLow = false) (hs : s.pins = q.pins log₀) (hscl : q.scl = false) (k : Bool) {m c : Nat}
    (hacked : s.bridge.status = .addressAcked) (hcount : c = min m s.bridge.remaining.toNat) (hpos : 0 < c) {due : Bool}
    (hdue : due = (decide (s.bridge.remaining.toNat = c) && s.bridge.endFlag)) :
    ∃ n log, PollRun n [.writeCallback k m] s []
        { s.wroteBytes q log₀ c with pins := ((q.written s.env.sdaLow c).stopped due).pins (log ++ log₀) } ∧
      Emits q.sda q.scl log true due
        ((List.range c).flatMap (fun i => bitsMsbFirst (payloadByte (rxBuf s k) i) ++ [true]) ++ if due then [false] else [])
        (if due then [.stop] else []) := by
  have htest : PollRun 1 [.writeCallback k m] s (writeCallbackOps s k m) s := .micro_quiet hc hb rfl rfl rfl
  rw [writeCallbackOps, if_pos hacked] at htest
  obtain ⟨n, log, hloop, hlog⟩ := PollRun.write_loop k m c 0 hc hb hlow hs hscl hcount
  rw [Nat.zero_add] at hloop
  have hstopDue : stopDue (s.wroteBytes q (log ++ log₀) c) c = due :=
    (stopDue_of_moved hpos (by omega) rfl).trans hdue.symm
  have hlow' : (q.written s.env.sdaLow c).scl = false := by rw [Lines.written, if_neg (by omega)]; exact hscl
  have hhigh : (q.written s.env.sdaLow c).sda = true := by rw [Lines.written, if_neg (by omega)]
  obtain ⟨n', log', hstop, hlog'⟩ := PollRun.stop_if_done (s := s.wroteBytes q (log ++ log₀) c)
    (q := q.written s.env.sdaLow c) (log₀ := log ++ log₀) ⟨hc.host, hc.latch, hc.active⟩ hb hlow rfl hlow' c
  rw [hstopDue, ← List.append_assoc] at hstop
  refine ⟨1 + n + n', log' ++ log, (htest.trans hloop).trans hstop, ?_⟩
  simp only [hstopDue, Lines.stopped, hlow', hhigh, Bool.true_or, Bool.false_or] at hlog'
  rw [hscl, hhigh, ← List.range_eq_range'] at hlog
  rw [hscl]
  exact hlog.trans hlog'

/-- The master's state after bytes were written, and after the stop where it is due. -/
theorem Pins.written_stopped {p : Pins} (hsda : p.sdaOut = false) (hscl : p.sclOut = false) (hdir : p.sclDir = .output)
    {c : Nat} (hpos : 0 < c) (ack due : Bool) (log : List BusEvent) :
    ((p.lines.written ack c).stopped due).pins log =
      { p with sdaDir := .input, sclDir := if due then .input else p.sclDir, ack := ack, log := log } := by
  rw [Lines.written, if_neg (by omega)]
  cases due <;> simp [Lines.stopped, Lines.pins, Pins.lines, released, lineDir, lineOut, hsda, hscl, hdir]

/-! ### S1 with a non-empty OUT (R153) -/

/-- S1 with an OUT packet is the write callback, then the buffer's release. -/
theorem steps_s1_out {s t : State} {m n : Nat} (h : AtPhase .s1 s) (hm : 1 ≤ m) (hm8 : m ≤ 8)
    (htoken : s.usb.rxToken = 0xE1) (hlen : s.usb.rxLen = BitVec.ofNat 8 (m + 3))
    (hrun : PollRun n [.writeCallback s.usb.rxSel m] { s with irq.enable := true } [] t) (ht : Calm t)
    (hb : t.env.bus = []) (hcont : t.poll.cont = []) :
    steps (n + 2 + 6) s = .next { t with usb.rxLen := 0, poll.phase := .s2 } := by
  have hops : s1TakeOps s.usb.rxLen s.usb.rxSel s.usb.rxToken =
      [.writeCallback s.usb.rxSel m, .setRxLen 0, .goto .s2] := by
    have hne : BitVec.ofNat 8 (m + 3) ≠ 0 := by bv_omega
    have hpayload : (BitVec.ofNat 8 (m + 3) - 3).toNat = m := by bv_omega
    rw [htoken, hlen]
    simp only [s1TakeOps, s1OutOps, Config.writeCallback, hne, hpayload, if_false, if_neg (show m ≠ 0 by omega)]
    rfl
  refine steps_s1 (n := n + 2) h hcont ?_
  rw [hops]
  exact hrun.seq (b := [.setRxLen 0, .goto .s2]) (.of_eval_quiet ht hb rfl rfl)

/-- Settles O48: the payload is dropped where no byte may go out; else the lines are at the level of a transaction in
progress, and the callback writes as many bytes as the counter allows. -/
theorem outPayloadWritten : Obligations.OutPayloadWritten := by
  intro s m h hm hm8 htoken hlen payload c stopped hlines
  have hc : Calm { s with irq.enable := true } := Calm.of_atPhase h
  have hb : s.env.bus = [] := h.2.1
  have hcont : s.poll.cont = [] := h.2.2.2.2.2
  rcases Nat.eq_zero_or_pos c with hzero | hpos
  · have hdrop : s.bridge.status = .addressAcked → s.bridge.remaining = 0 := by
      intro hacked
      simp only [c, if_pos hacked] at hzero
      exact BitVec.eq_of_toNat_eq (by simp; omega)
    obtain ⟨n, hrun⟩ := PollRun.write_callback_drop hc hb s.usb.rxSel m hdrop
    refine ⟨_, [], (steps_s1_out h hm hm8 htoken hlen hrun hc hb hcont).trans ?_, fun _ => rfl, ?_, ?_⟩
    · simp [stopped, hzero]
    · simp [stopped, hzero, clockedBits]
    · simp [hzero]
  · obtain ⟨hlow, ⟨hsdaOut, hsclOut⟩, hsclDir⟩ := hlines hpos
    have hacked : s.bridge.status = .addressAcked := by
      by_contra hnot
      simp [c, hnot] at hpos
    have hcount : c = min m s.bridge.remaining.toNat := if_pos hacked
    have hstopped : stopped = (decide (s.bridge.remaining.toNat = c) && s.bridge.endFlag) := by simp [stopped, hpos]
    obtain ⟨n, log, hrun, hlog⟩ := PollRun.write_callback (s := { s with irq.enable := true }) hc hb hlow
      (Pins.eq_lines hsdaOut hsclOut) (Pins.lines_scl_of_output hsclOut hsclDir) s.usb.rxSel hacked hcount hpos hstopped
    rw [Pins.lines_scl_of_output hsclOut hsclDir] at hlog
    have hsteps := steps_s1_out h hm hm8 htoken hlen hrun ⟨hc.host, hc.latch, hc.active⟩ hb hcont
    have hpayload : payload.take c = (List.range c).map (payloadByte (rxBuf s s.usb.rxSel)) := by
      simp only [payload]
      rw [List.take_take, Nat.min_eq_left (by omega), payload_eq_map _ (by omega)]
    refine ⟨_, log, hsteps.trans ?_, fun hzero => absurd hzero (by omega), ?_, fun _ => hlog.busConditions_eq⟩
    · simp only [Pins.written_stopped hsdaOut hsclOut hsclDir hpos, if_pos hpos]
      rfl
    · rw [hlog.clockedBits_eq, hpayload, List.flatMap_map]
      rfl

end Sys2Proof.Machine

/-! The read callback: S2 takes the bytes of an I2C read as the next packet, or zeros after an address that was not
acknowledged (R164, R245 to R249; O50). -/

namespace Sys2Proof.Machine

/-! ### The bus agent's script -/

/-- After a part of its script the bus agent holds what the last choice of it says. -/
theorem Env.iterate_next {e : Env} {pre : List BusDrive} {d : BusDrive} {rest : List BusDrive}
    (h : e.bus = pre ++ d :: rest) :
    Env.next^[pre.length + 1] e = { e with bus := rest, sdaLow := d.sdaLow, sclLow := d.sclLow } := by
  induction pre generalizing e with
  | nil => simp only [List.nil_append] at h; simp [Env.next, h]
  | cons c pre ih =>
    have hnext : e.next = { e with bus := pre ++ d :: rest, sdaLow := c.sdaLow, sclLow := c.sclLow } := by
      simp [Env.next, h]
    rw [List.length_cons, Function.iterate_succ_apply, ih (by rw [hnext]), hnext]

theorem Env.iterate_replicate {e : Env} {n : Nat} {d : BusDrive} {rest : List BusDrive}
    (h : e.bus = List.replicate (n + 1) d ++ rest) :
    Env.next^[n + 1] e = { e with bus := rest, sdaLow := d.sdaLow, sclLow := d.sclLow } := by
  have hnext := Env.iterate_next (pre := List.replicate n d) (d := d) (rest := rest) (e := e)
    (by simp [h, List.replicate_succ'])
  rwa [List.length_replicate] at hnext

/-- The bus agent holds neither line and has these choices to come. -/
def Env.free (e : Env) (bus : List BusDrive) : Env := { e with bus := bus, sdaLow := false, sclLow := false }

theorem Env.free_noStretch {e : Env} {bus : List BusDrive} (h : ∀ d ∈ bus, d.sclLow = false) : (e.free bus).NoStretch :=
  ⟨rfl, h⟩

/-! ### A byte that a slave sends (R284) -/

theorem getLsbD_withBit (data : Byte) {i j : Nat} (v : Bool) (hj : j < 8) :
    (withBit data i v).getLsbD j = if j = i then v else data.getLsbD j := by
  have hmask : ((1 : Byte) <<< i).getLsbD j = decide (j = i) := by
    rw [Bool.eq_iff_iff]
    simp [hj]
    omega
  unfold withBit
  cases v
  · rw [if_neg (by decide), BitVec.getLsbD_and, BitVec.getLsbD_not, hmask]
    by_cases h : j = i <;> simp [h, hj]
  · rw [if_pos rfl, BitVec.getLsbD_or, hmask]
    by_cases h : j = i <;> simp [h]
theorem foldl_withBit (data : Byte) : msbFirst.foldl (fun d i => withBit d i (data.getLsbD i)) 0 = data := by
  apply BitVec.eq_of_getLsbD_eq
  intro j hj
  simp only [msbFirst, List.foldl_cons, List.foldl_nil, getLsbD_withBit, hj]
  interval_cases j <;> rfl

/-- Each sample of a released SDA is the bit that the slave sends in the eight steps around it. -/
theorem sampled_script (data : Byte) (rest : List BusDrive) : ∀ (is : List Nat) (d : Byte) {e : Env},
    e.bus = (is.map data.getLsbD).flatMap (fun v => List.replicate 8 ⟨!v, false⟩) ++ rest →
    sampled true e d is = is.foldl (fun d i => withBit d i (data.getLsbD i)) d
  | [], _, _, _ => rfl
  | i :: is, d, e, h => by
    rw [List.map_cons, List.flatMap_cons, List.append_assoc] at h
    have hsplit : e.bus = List.replicate 3 ⟨!data.getLsbD i, false⟩ ++ (List.replicate 5 ⟨!data.getLsbD i, false⟩ ++
        ((is.map data.getLsbD).flatMap (fun v => List.replicate 8 ⟨!v, false⟩) ++ rest)) := h
    have hsample : (Env.next^[3] e).sdaLow = !data.getLsbD i := by rw [Env.iterate_replicate (n := 2) hsplit]
    have hrest : Env.next^[8] e = _ := Env.iterate_replicate (n := 7) h
    rw [sampled, hsample, hrest, Bool.true_and, Bool.not_not, List.foldl_cons]
    exact sampled_script data rest is _ rfl

theorem sampled_slaveScript {e : Env} {data : Byte} {rest : List BusDrive} (h : e.bus = slaveScript data ++ rest) :
    sampled true (Env.next^[2] e) 0 msbFirst = data := by
  rw [slaveScript, List.append_assoc] at h
  rw [Env.iterate_replicate (n := 1) h, sampled_script data rest msbFirst 0 rfl, foldl_withBit]

/-! ### The script of a read callback -/

theorem slaveScript_noStretch (data : Byte) : ∀ d ∈ slaveScript data, d.sclLow = false := by
  intro d hd
  rcases List.mem_append.mp hd with h | h
  · rw [List.eq_of_mem_replicate h]
  · obtain ⟨v, -, hv⟩ := List.mem_flatMap.mp h
    rw [List.eq_of_mem_replicate hv]

theorem readCallbackScript_noStretch (n : Nat) (bytes : List Byte) :
    ∀ d ∈ readCallbackScript n bytes, d.sclLow = false := by
  induction bytes generalizing n with
  | nil => simp [readCallbackScript]
  | cons b rest ih =>
    simp only [readCallbackScript, List.forall_mem_append]
    exact ⟨⟨⟨by simp, slaveScript_noStretch b⟩, by simp⟩, ih _⟩

/-- A READ uses up the slave's script and all but two of the choices behind it. -/
theorem Env.iterate_read {e : Env} {data : Byte} {rest : List BusDrive} (last : Bool)
    (h : e.bus = slaveScript data ++ List.replicate (if last then 10 else 11) ⟨false, false⟩ ++ rest) :
    Env.next^[(readOps last).length] e = e.free (List.replicate 2 ⟨false, false⟩ ++ rest) := by
  cases last
  · exact Env.iterate_next (pre := slaveScript data ++ List.replicate 8 ⟨false, false⟩) (d := ⟨false, false⟩)
      (rest := List.replicate 2 ⟨false, false⟩ ++ rest) (h.trans (by simp [List.replicate_succ]))
  · exact Env.iterate_next (pre := slaveScript data ++ List.replicate 7 ⟨false, false⟩) (d := ⟨false, false⟩)
      (rest := List.replicate 2 ⟨false, false⟩ ++ rest) (h.trans (by simp [List.replicate_succ]))

/-! ### The read callback's loop -/

/-- The lines after these bytes are read: SDA is released in the last acknowledge exactly where the counter came to its end
(R246). -/
def Lines.read (q : Lines) (remaining : Nat) (bytes : List Byte) : Lines :=
  { q with
    sda := if bytes = [] then q.sda else decide (remaining = bytes.length)
    byte := bytes.getLast?.getD q.byte }

/-- The state after one byte is read, with these choices of the bus agent to come. -/
def State.readByte (s : State) (q : Lines) (log : List BusEvent) (i : Nat) (data : Byte) (bus : List BusDrive) : State :=
  { s with
    pins := (q.read s.bridge.remaining.toNat [data]).pins log
    usb.txBuf := s.usb.txBuf.setIfInBounds (1 + i) data
    bridge.remaining := s.bridge.remaining - 1
    env := s.env.free bus }

theorem readOps_ofLine (last : Bool) : (readOps last).all MicroOp.ofLine = true := by cases last <;> rfl

theorem readOps_length_le (last : Bool) : (readOps last).length ≤ opFuel := by cases last <;> decide

/-- One byte of the callback (R245, R246). -/
theorem PollRun.read_byte {s : State} {q : Lines} {log₀ : List BusEvent} {data : Byte} {rest : List Byte} (hc : Calm s)
    (hs : s.pins = q.pins log₀) (hscl : q.scl = false)
    (hb : s.env.bus = readCallbackScript s.bridge.remaining.toNat (data :: rest)) (i : Nat) :
    ∃ log, PollRun 4 [.readByte i] s []
        (s.readByte q (log ++ log₀) i data (readCallbackScript (s.bridge.remaining.toNat - 1) rest)) ∧
      Emits q.sda q.scl log (q.read s.bridge.remaining.toNat [data]).sda q.scl
        (List.replicate 8 true ++ [decide (s.bridge.remaining.toNat = 1)]) [] := by
  have hlast : (s.bridge.remaining == 1) = decide (s.bridge.remaining.toNat = 1) := by
    rw [Bool.eq_iff_iff, beq_iff_eq, decide_eq_true_iff, ← BitVec.toNat_inj]
    rfl
  have hscript : s.env.bus = List.replicate 1 ⟨false, false⟩ ++ (slaveScript data ++
      List.replicate (if decide (s.bridge.remaining.toNat = 1) then 10 else 11) ⟨false, false⟩ ++
        readCallbackScript (s.bridge.remaining.toNat - 1) rest) := by
    rw [hb, readCallbackScript]
    simp
  have hfirst : Env.next s.env = s.env.free _ := Env.iterate_replicate (n := 0) hscript
  have hread : PollRun 1 [.readByte i] s (readByteOps s i) { s with env := s.env.next } :=
    PollRun.micro (more := readByteOps s i) hc rfl rfl []
  rw [readByteOps, hlast, hfirst] at hread
  have hc₁ : ∀ bus, Calm { s with env := s.env.free bus } := fun _ => ⟨hc.host, hc.latch, hc.active⟩
  have hstretch : ∀ k, ∀ d ∈ slaveScript data ++ List.replicate k ⟨false, false⟩ ++
      readCallbackScript (s.bridge.remaining.toNat - 1) rest, d.sclLow = false := by
    simp only [List.forall_mem_append]
    exact fun k => ⟨⟨slaveScript_noStretch data, by simp⟩, readCallbackScript_noStretch _ _⟩
  obtain ⟨log, hcmd, hlog⟩ := PollRun.of_lineRun (hc₁ _) hs (i2cCmdOps_read (decide (s.bridge.remaining.toNat = 1)))
    (readOps_ofLine _) (readOps_length_le _) (.read (Env.free_noStretch (hstretch _)) hscl _)
  rw [Env.iterate_read _ rfl, sampled_slaveScript (List.append_assoc _ _ _)] at hcmd
  refine ⟨log, (hread.trans (hcmd.seq (m := 2) (b := [.takeByte i, .decRemaining]) ?_)).of_count rfl, hlog⟩
  exact .of_eval ⟨hc.host, hc.latch, hc.active⟩ rfl

theorem Lines.read_cons (q : Lines) {remaining : Nat} (hpos : 0 < remaining) (data : Byte) (rest : List Byte) :
    (q.read remaining [data]).read (remaining - 1) rest = q.read remaining (data :: rest) := by
  cases rest with
  | nil => simp [Lines.read]
  | cons b rest =>
    have hiff : remaining - 1 = rest.length + 1 ↔ remaining = rest.length + 1 + 1 := by omega
    simp [Lines.read, hiff, List.getLast?_cons]

/-- A state after these bytes are read from these lines (R245). -/
def State.readBytes (s : State) (q : Lines) (log : List BusEvent) (buf : Vector Byte Config.bufBytes) (bytes : List Byte) :
    State :=
  { s with
    pins := (q.read s.bridge.remaining.toNat bytes).pins log
    usb.txBuf := buf
    bridge.remaining := s.bridge.remaining - BitVec.ofNat 16 bytes.length
    env := s.env.free [] }

theorem State.readBytes_cons {s : State} {q : Lines} {log log' : List BusEvent} {i : Nat} {data : Byte}
    {bus : List BusDrive} {buf : Vector Byte Config.bufBytes} {rest : List Byte} (hpos : 0 < s.bridge.remaining.toNat) :
    (s.readByte q log i data bus).readBytes (q.read s.bridge.remaining.toNat [data]) log' buf rest =
      s.readBytes q log' buf (data :: rest) := by
  have hcount : s.bridge.remaining - 1 - BitVec.ofNat 16 rest.length =
      s.bridge.remaining - BitVec.ofNat 16 (rest.length + 1) := by bv_omega
  have hlast : (s.bridge.remaining - 1).toNat = s.bridge.remaining.toNat - 1 := by bv_omega
  simp only [readBytes, readByte, List.length_cons, hcount, hlast, q.read_cons hpos]
  rfl

/-- The loop from byte i on takes the bytes that the slave sends, behind what the buffer holds at its front. -/
theorem PollRun.read_bytes : ∀ (bytes : List Byte) (i : Nat) {s : State} {q : Lines} {log₀ : List BusEvent}
    {front : List Byte}, Calm s → s.pins = q.pins log₀ → q.scl = false → bytes.length ≤ s.bridge.remaining.toNat →
    front <+: s.usb.txBuf.toList → front.length = 1 + i → i + bytes.length ≤ 10 →
    s.env = s.env.free (readCallbackScript s.bridge.remaining.toNat bytes) →
    ∃ n log buf, PollRun n ((List.range' i bytes.length).map .readByte) s [] (s.readBytes q (log ++ log₀) buf bytes) ∧
      front ++ bytes <+: buf.toList ∧
      Emits q.sda q.scl log (q.read s.bridge.remaining.toNat bytes).sda q.scl
        ((List.range bytes.length).flatMap fun j =>
          List.replicate 8 true ++ [decide (s.bridge.remaining.toNat = j + 1)]) []
  | [], i, s, q, log₀, front, _, hs, _, _, hfront, _, _, henv => by
    refine ⟨0, [], s.usb.txBuf, ?_, by rwa [List.append_nil], .nil _ _⟩
    have hfree : s.env.free [] = s.env := henv.symm
    have hsame : s.readBytes q log₀ s.usb.txBuf [] = s := by simp [State.readBytes, Lines.read, hfree, ← hs]
    rw [List.nil_append, hsame]
    exact .refl _ _
  | data :: rest, i, s, q, log₀, front, hc, hs, hscl, hlen, hfront, hi, hmax, henv => by
    have hpos : 0 < s.bridge.remaining.toNat := Nat.lt_of_lt_of_le (by simp) hlen
    have hremaining : (s.bridge.remaining - 1).toNat = s.bridge.remaining.toNat - 1 := by bv_omega
    rw [List.length_cons] at hlen hmax
    obtain ⟨log, hbyte, hlog⟩ := PollRun.read_byte hc hs hscl (congrArg Env.bus henv) i
    have hset := prefix_set_end hfront (by omega) data
    rw [hi] at hset
    obtain ⟨n, log', buf, hloop, hbuf, hlog'⟩ := PollRun.read_bytes rest (i + 1)
      (s := s.readByte q (log ++ log₀) i data (readCallbackScript (s.bridge.remaining.toNat - 1) rest))
      ⟨hc.host, hc.latch, hc.active⟩ rfl hscl (by rw [State.readByte, hremaining]; omega) hset (by simp; omega) (by omega)
      (by rw [State.readByte, hremaining]; rfl)
    refine ⟨4 + n, log' ++ log, buf, ?_, by simpa using hbuf, ?_⟩
    · rw [State.readBytes_cons hpos, ← List.append_assoc] at hloop
      exact hbyte.seq hloop
    · have hbits : (List.range rest.length).flatMap (fun j =>
            List.replicate 8 true ++ [decide (s.bridge.remaining.toNat = j + 1 + 1)]) =
          (List.range rest.length).flatMap fun j =>
            List.replicate 8 true ++ [decide ((s.bridge.remaining - 1).toNat = j + 1)] := by
        have hiff : ∀ j, s.bridge.remaining.toNat = j + 1 + 1 ↔ (s.bridge.remaining - 1).toNat = j + 1 := by omega
        simp only [hiff]
      rw [List.length_cons, List.range_succ_eq_map, List.flatMap_cons, List.flatMap_map, hbits, ← q.read_cons hpos,
        ← hremaining]
      exact hlog.trans hlog'

/-! ### The read callback (R245 to R249) -/

/-- The master's state after bytes were read, and after the stop where it is due. -/
theorem Pins.read_stopped {p : Pins} (hsda : p.sdaOut = false) (hscl : p.sclOut = false) (hdir : p.sclDir = .output)
    {remaining : Nat} {bytes : List Byte} (hpos : 0 < bytes.length) (endFlag : Bool) (log : List BusEvent) :
    ((p.lines.read remaining bytes).stopped (decide (remaining = bytes.length) && endFlag)).pins log =
      { p with
        sdaDir := if remaining = bytes.length then .input else .output
        sclDir := if decide (remaining = bytes.length) && endFlag then .input else p.sclDir
        byte := bytes.getLast?.getD p.byte, log := log } := by
  have hne : bytes ≠ [] := List.ne_nil_of_length_pos hpos
  by_cases hlast : remaining = bytes.length <;> cases endFlag <;>
    simp [Lines.read, Lines.stopped, Lines.pins, Pins.lines, released, lineDir, lineOut, hsda, hscl, hdir, hne, hlast]

/-- The bytes are read, then the stop is made where it is due. -/
theorem PollRun.read_callback {s : State} {bytes : List Byte} (hc : Calm s)
    (henv : s.env = s.env.free (readCallbackScript s.bridge.remaining.toNat bytes))
    (hlen : bytes.length ≤ s.bridge.remaining.toNat) (hmax : bytes.length ≤ 8) (hpos : 0 < bytes.length)
    (hhigh : NeverHigh s) (hdir : s.pins.sclDir = .output) :
    ∃ n log buf, PollRun n ((List.range bytes.length).map .readByte ++ [.stopIfDone bytes.length]) s []
        { s with
          pins := { s.pins with
            sdaDir := if s.bridge.remaining.toNat = bytes.length then .input else .output
            sclDir :=
              if decide (s.bridge.remaining.toNat = bytes.length) && s.bridge.endFlag then .input else s.pins.sclDir
            byte := bytes.getLast?.getD s.pins.byte, log := log ++ s.pins.log }
          usb.txBuf := buf
          bridge.remaining := s.bridge.remaining - BitVec.ofNat 16 bytes.length
          env := s.env.free [] } ∧
      s.usb.txBuf[0] :: bytes <+: buf.toList ∧
      clockedBits false log.reverse =
        (List.range bytes.length).flatMap
            (fun j => List.replicate 8 true ++ [decide (s.bridge.remaining.toNat = j + 1)]) ++
          (if decide (s.bridge.remaining.toNat = bytes.length) && s.bridge.endFlag then [false] else []) ∧
      busConditions (released s.pins .sda) false log.reverse =
        if decide (s.bridge.remaining.toNat = bytes.length) && s.bridge.endFlag then [.stop] else [] := by
  have hscl := Pins.lines_scl_of_output hhigh.2 hdir
  obtain ⟨n, log, buf, hloop, hbuf, hlog⟩ := PollRun.read_bytes bytes 0 hc (Pins.eq_lines hhigh.1 hhigh.2) hscl hlen
    (head_prefix _) rfl (by omega) henv
  rw [← List.range_eq_range'] at hloop
  have hdue : stopDue (s.readBytes s.pins.lines (log ++ s.pins.log) buf bytes) bytes.length =
      (decide (s.bridge.remaining.toNat = bytes.length) && s.bridge.endFlag) := stopDue_of_moved hpos hlen rfl
  obtain ⟨n', log', hstop, hlog'⟩ := PollRun.stop_if_done (s := s.readBytes s.pins.lines (log ++ s.pins.log) buf bytes)
    ⟨hc.host, hc.latch, hc.active⟩ rfl rfl rfl hscl bytes.length
  rw [hdue] at hlog'
  rw [hdue, Pins.read_stopped hhigh.1 hhigh.2 hdir hpos, ← List.append_assoc] at hstop
  have hemits := hlog.trans hlog'
  rw [hscl] at hemits
  exact ⟨n + n', log' ++ log, buf, hloop.seq hstop, hbuf, hemits.clockedBits_eq, hemits.busConditions_eq⟩

/-! ### S2 with a callback transfer (R160, R164) -/

theorem s2TakeOps_callback {s : State} (hlen : s.usb.txLen = 0) (hcallback : s.usb.txState = .callback) :
    s2TakeOps s s.usb.txLen = [.readCallback (capacity s), .addressCommit, .goto .s3] := by
  rw [s2TakeOps_refill hlen (by rw [hcallback]; decide), refillOps, hcallback]
  rfl

/-- S2 with a callback transfer is the read callback with the end of its refill. -/
theorem steps_s2_callback {n : Nat} {bus : List BusDrive} {s t : State} (h : AtPhaseWith .s2 [] bus s)
    (hlen : s.usb.txLen = 0) (hcallback : s.usb.txState = .callback)
    (hrun : PollRun n (readCallbackOps s (capacity s) ++ [.addressCommit, .goto .s3])
      { s with irq.enable := true, env := Env.next^[5] s.env } [] t) (ht : t.poll.cont = []) :
    steps (1 + n + 4) s = .next t := by
  have hc : Calm { s with irq.enable := true, env := Env.next^[4] s.env } := by
    obtain ⟨hhost, hlatch, hactive⟩ := Calm.of_atPhase h
    exact ⟨by simpa using hhost, hlatch, hactive⟩
  refine steps_s2 h ?_ ht
  rw [s2TakeOps_callback hlen hcallback]
  exact (PollRun.micro hc rfl rfl [.addressCommit, .goto .s3]).trans hrun

/-- Zeros take the place of the bytes after an address that was not acknowledged (R249). -/
theorem PollRun.zero_fill {s : State} (hc : Calm s) (hb : s.env.bus = []) {k : Nat} (hk : k ≤ 8) :
    ∃ buf, PollRun (1 * k + (k + 10))
        ((List.range k).map (fun i => .putTxByte i 0) ++ refillEndOps k ++ [.addressCommit, .goto .s3]) s []
        (s.refilled buf k) ∧
      buf.toList.take (k + 3) = dataBytes (s.usb.txBuf[0] ^^^ 0x88) (List.replicate k 0) (crc16 (List.replicate k 0)) := by
  have hput : ∀ i (buf : Vector Byte Config.bufBytes), PollRun 1 [.putTxByte i 0] { s with usb.txBuf := buf } []
      { s with usb.txBuf := buf.setIfInBounds (1 + i) 0 } :=
    fun i buf => .of_eval_quiet ⟨hc.host, hc.latch, hc.active⟩ hb rfl rfl
  obtain ⟨buf₀, hfill, hbuf₀⟩ := PollRun.fill (op := fun i => .putTxByte i 0) (f := fun _ => 0) hput k (by omega)
  rw [List.map_const', List.length_range] at hbuf₀
  obtain ⟨buf, hend, hbuf⟩ := PollRun.refill_end (s := { s with usb.txBuf := buf₀ }) ⟨hc.host, hc.latch, hc.active⟩ hb
    hbuf₀ (by simpa using hk)
  rw [List.length_replicate] at hend hbuf
  refine ⟨buf, ?_, hbuf⟩
  rw [List.append_assoc]
  exact hfill.seq hend

/-- S2 after an acknowledged address: once its bytes are read, they become the packet (R164, R248). -/
theorem steps_s2_read {n : Nat} {s t : State} {bytes : List Byte} {pid : Byte}
    (h : AtPhaseWith .s2 []
      (List.replicate 5 ⟨false, false⟩ ++ readCallbackScript s.bridge.remaining.toNat bytes) s)
    (hlen : s.usb.txLen = 0) (hcallback : s.usb.txState = .callback) (hacked : s.bridge.status = .addressAcked)
    (hbytes : bytes.length = min (capacity s) s.bridge.remaining.toNat)
    (hread : PollRun n ((List.range bytes.length).map .readByte ++ [.stopIfDone bytes.length])
      { s with irq.enable := true, env := s.env.free (readCallbackScript s.bridge.remaining.toNat bytes) } [] t)
    (ht : Calm t) (hb : t.env.bus = []) (hcont : t.poll.cont = []) (hbuf : pid :: bytes <+: t.usb.txBuf.toList) :
    ∃ n buf, steps n s = .next (t.refilled buf bytes.length) ∧
      buf.toList.take (bytes.length + 3) = dataBytes (pid ^^^ 0x88) bytes (crc16 bytes) := by
  have hmax : bytes.length ≤ 8 := hbytes.trans_le ((Nat.min_le_left _ _).trans (capacity_le s))
  have hops : readCallbackOps s (capacity s) =
      (List.range bytes.length).map .readByte ++ [.stopIfDone bytes.length] ++ refillEndOps bytes.length := by
    rw [hbytes]
    exact if_pos hacked
  have henv : Env.next^[5] s.env = s.env.free (readCallbackScript s.bridge.remaining.toNat bytes) :=
    Env.iterate_replicate (n := 4) h.2.1
  obtain ⟨buf, hend, hpacket⟩ := PollRun.refill_end ht hb hbuf hmax
  have hrun := hread.seq hend
  rw [← List.append_assoc, ← hops, ← henv] at hrun
  exact ⟨_, buf, steps_s2_callback h hlen hcallback hrun hcont, hpacket⟩

/-- Settles O50: after an acknowledged address the callback takes the slave's bytes, where there are any to read; else it
takes zeros. -/
theorem readCallbackNaksLast : Obligations.ReadCallbackNaksLast := by
  intro s bytes hlen hcallback cap k stopped
  refine ⟨fun hacked hbytes hlines h => ?_, fun hnacked h => ?_⟩
  · obtain ⟨hhost, hlatch, hactive⟩ := Calm.of_atPhase h
    have hcont : s.poll.cont = [] := h.2.2.2.2.2
    rcases Nat.eq_zero_or_pos bytes.length with hzero | hpos
    · obtain rfl := List.eq_nil_of_length_eq_zero hzero
      have hread : PollRun 1 [.stopIfDone 0] { s with irq.enable := true, env := s.env.free [] } []
          { s with irq.enable := true, env := s.env.free [] } :=
        .of_eval_quiet ⟨hhost, hlatch, hactive⟩ rfl rfl rfl
      obtain ⟨n, buf, hsteps, hbuf⟩ := steps_s2_read h hlen hcallback hacked hbytes hread ⟨hhost, hlatch, hactive⟩ rfl hcont
        (head_prefix _)
      have hk : k = 0 := hbytes.symm
      have hstopped : stopped = false := by simp only [stopped, hk, Nat.lt_irrefl, decide_false, Bool.false_and]
      refine ⟨n, buf, [], hsteps.trans ?_, ?_, fun _ => rfl, ?_, fun hpos => absurd hk hpos.ne'⟩
      · rw [hk, hstopped]
        simp only [State.refilled, List.length_nil, BitVec.sub_zero]
        rfl
      · rw [hk]
        exact hbuf
      · rw [hk, hstopped]
        rfl
    · obtain ⟨hhigh, hdir⟩ := hlines (hbytes ▸ hpos)
      obtain ⟨m, log, buf₀, hread, hbuf₀, hbits, hconds⟩ := PollRun.read_callback
        (s := { s with irq.enable := true, env := s.env.free (readCallbackScript s.bridge.remaining.toNat bytes) })
        ⟨hhost, hlatch, hactive⟩ rfl (hbytes.trans_le (Nat.min_le_right _ _))
        (hbytes.trans_le ((Nat.min_le_left _ _).trans (Nat.min_le_left _ _))) hpos hhigh hdir
      obtain ⟨n, buf, hsteps, hbuf⟩ := steps_s2_read h hlen hcallback hacked hbytes hread ⟨hhost, hlatch, hactive⟩ rfl hcont
        hbuf₀
      have hstopped : stopped = (decide (s.bridge.remaining.toNat = bytes.length) && s.bridge.endFlag) := by
        simp only [stopped, ← hbytes, decide_eq_true hpos, Bool.true_and]
      refine ⟨n, buf, log, hsteps.trans ?_, ?_, ?_, ?_, ?_⟩
      · rw [← hbytes, hstopped, if_neg hpos.ne']
        simp only [State.refilled, hcallback]
        rfl
      · rw [← hbytes]
        exact hbuf
      · exact fun hzero => absurd hzero (hbytes ▸ hpos.ne')
      · rw [hstopped, ← hbytes]
        exact hbits
      · rw [hstopped]
        exact fun _ => hconds
  · have hops : readCallbackOps s (capacity s) =
        (List.range cap).map (fun i => .putTxByte i 0) ++ refillEndOps cap := if_neg hnacked
    obtain ⟨buf, hrun, hbuf⟩ := PollRun.zero_fill (s := { s with irq.enable := true }) (Calm.of_atPhase h) h.2.1
      (k := cap) (capacity_le s)
    rw [← hops, ← Env.iterate_of_quiet (e := s.env) h.2.1 5] at hrun
    refine ⟨_, buf, (steps_s2_callback h hlen hcallback hrun h.2.2.2.2.2).trans ?_, hbuf⟩
    simp only [State.refilled, hcallback, Env.iterate_of_quiet (e := s.env) h.2.1]

end Sys2Proof.Machine

/-! An undisturbed instruction: its atomic steps follow one another within one step of the machine, and a run of them is put
together from the runs of its parts. -/

namespace Sys2Proof.Machine

/-- While nothing disturbs POLL, the first n of an instruction's steps lead from the state s to the steps `ops'` and the
state t, whatever steps stand behind them and however much fuel is left. -/
def QuietRun (n : Nat) (ops : List MicroOp) (s : State) (ops' : List MicroOp) (t : State) : Prop :=
  ∀ fuel rest, runOps (n + fuel) (ops ++ rest) s = runOps fuel (ops' ++ rest) t

theorem QuietRun.nil (s : State) : QuietRun 0 [] s [] s := fun fuel _ => by rw [Nat.zero_add]

theorem QuietRun.trans {n m : Nat} {a b c : List MicroOp} {s t u : State} (h : QuietRun n a s b t)
    (h' : QuietRun m b t c u) : QuietRun (n + m) a s c u := fun fuel rest => by
  rw [Nat.add_assoc, h, h']

/-- Two lists of steps, one after the other. -/
theorem QuietRun.seq {n m : Nat} {a b c : List MicroOp} {s t u : State} (h : QuietRun n a s [] t)
    (h' : QuietRun m b t c u) : QuietRun (n + m) (a ++ b) s c u := fun fuel rest => by
  rw [Nat.add_assoc, List.append_assoc, h, List.nil_append, h']

/-- One atomic step: in a quiet state no interrupt is due before it and nothing moves after it (R81, R322). -/
theorem QuietRun.micro {op : MicroOp} {more : List MicroOp} {s t : State} (hs : Quiet s)
    (h : microStep op s = .go more t) : QuietRun 1 [op] s more t := fun fuel rest => by
  obtain ⟨hhost, hbus, hdue⟩ := hs
  obtain ⟨-, -, henv, -⟩ := microStep_frame h
  have hstill : tick t = t := tick_quiet t (by rw [henv]; exact hhost) (by rw [henv]; exact hbus)
  rw [Nat.add_comm, List.singleton_append, runOps_go hdue h, hstill]

/-- Steps that are worked off within the fuel are the whole instruction. -/
theorem QuietRun.runInstr {n : Nat} {ops : List MicroOp} {s t : State} (h : QuietRun n ops s [] t) (hn : n ≤ opFuel) :
    runInstr ops s = .next t := by
  obtain ⟨fuel, hfuel⟩ := Nat.exists_eq_add_of_le hn
  have hrun := h fuel []
  rwa [List.append_nil, ← hfuel, List.nil_append, runOps_nil] at hrun

end Sys2Proof.Machine

/-! The start of a transfer and the requests that get a zero-length reply (R202, R203, R210, R232; O24, O33), and
SET_ADDRESS (R206; O25). -/

namespace Sys2Proof.Machine

/-! ### The clamp on the data stage (R203) -/

theorem lo8_toNat (v : Half) : (lo8 v).toNat = v.toNat % 256 := by simp [lo8]

theorem hi8_toNat (v : Half) : (hi8 v).toNat = v.toNat / 256 := by
  simp only [hi8, BitVec.extractLsb'_toNat, Nat.shiftRight_eq_div_pow]
  omega

theorem hi8_eq_zero_iff (v : Half) : hi8 v = 0 ↔ v.toNat < 256 := by
  rw [← BitVec.toNat_inj, hi8_toNat, show BitVec.toNat (0 : Byte) = 0 from rfl]
  omega

/-- wLength, a value of 256 or more counting as 255. -/
theorem hostCap_toNat (wl : Half) : (hostCap wl).toNat = if wl.toNat < 256 then wl.toNat else 255 := by
  unfold hostCap
  split
  · next h => rw [if_neg (mt (hi8_eq_zero_iff wl).mpr h)]; rfl
  · next h =>
    have hlt : wl.toNat < 256 := (hi8_eq_zero_iff wl).mp (not_not.mp h)
    rw [if_pos hlt, lo8_toNat, Nat.mod_eq_of_lt hlt]

theorem minByte_toNat (a b : Byte) : (minByte a b).toNat = min a.toNat b.toNat := by
  unfold minByte
  split <;> omega

theorem clampedLength_toNat {n : Nat} (h : n ≤ 255) (wl : Half) :
    (clampedLength n wl).toNat = min n (hostCap wl).toNat := by
  rw [clampedLength, BitVec.toNat_ofNat, hostCap_toNat]
  omega

/-- The clamp as the dispatcher computes it. -/
theorem minByte_hostCap (r : Byte) (wl : Half) : minByte r (hostCap wl) = clampedLength r.toNat wl := by
  apply BitVec.eq_of_toNat_eq
  rw [minByte_toNat, clampedLength_toNat (by omega)]

/-- A callback transfer has the length that the host asked for: the sentinel, clamped. -/
theorem hostCap_eq_clampedLength (wl : Half) : hostCap wl = clampedLength 255 wl := by
  apply BitVec.eq_of_toNat_eq
  rw [clampedLength_toNat le_rfl]
  omega

@[simp] theorem clampedLength_zero (wl : Half) : clampedLength 0 wl = 0 := by
  rw [clampedLength, Nat.zero_min]
  rfl

/-! ### The start of a transfer (R203) -/

/-- The state in which a transfer of r bytes, or of the callback's where r is the sentinel, has been started. -/
def State.transferring (s : State) (r : Nat) (src : TxState) (wl : Half) : State :=
  { s with usb.txState := if r = 255 then .callback else src, usb.txTotal := clampedLength r wl }

theorem State.transferring_zero (s : State) (src : TxState) (wl : Half) :
    s.transferring 0 src wl = { s with usb.txState := src, usb.txTotal := 0 } := by
  simp [transferring]

theorem State.transferring_of_le {r : Nat} (h : r ≤ 254) (s : State) (src : TxState) (wl : Half) :
    s.transferring r src wl = { s with usb.txState := src, usb.txTotal := clampedLength r wl } := by
  rw [transferring, if_neg (by omega)]

/-- The two assignments that the start of a transfer comes to, in the spec's words. -/
theorem startTransferOps_eq (r : Byte) (src : TxState) (wl : Half) :
    startTransferOps r src wl =
      [.setTxState (if r.toNat = 255 then .callback else src), .setTxTotal (clampedLength r.toNat wl)] := by
  have hsentinel : r = Config.replySentinel ↔ r.toNat = 255 := by
    rw [← BitVec.toNat_inj]; rfl
  unfold startTransferOps
  simp only [hsentinel]
  split
  · next h => rw [hostCap_eq_clampedLength, h]
  · rw [minByte_hostCap]

/-- The transfer's source, then its length. -/
theorem QuietRun.start_transfer {s : State} (hs : Quiet s) (r : Byte) (src : TxState) (wl : Half) :
    QuietRun 3 [.startTransfer r src wl] s [] (s.transferring r.toNat src wl) := by
  have hlead : microStep (.startTransfer r src wl) s =
      .go [.setTxState (if r.toNat = 255 then .callback else src), .setTxTotal (clampedLength r.toNat wl)] s :=
    congrArg (OpResult.go · s) (startTransferOps_eq r src wl)
  have hsource := QuietRun.micro (op := .setTxState (if r.toNat = 255 then .callback else src)) hs rfl
  exact (micro hs hlead).trans (hsource.seq (.micro hs rfl))

/-- Settles O33: the dispatcher's clamp is the spec's. -/
theorem transferClamp : Obligations.TransferClamp := by
  intro s r src wl hs
  exact (QuietRun.start_transfer hs r src wl).runInstr (by decide)

/-! ### Zero-length replies -/

/-- The steps of a request that is ignored start a transfer of no bytes, and nothing else (R202, R210, R232). -/
theorem QuietRun.empty_reply {s : State} (hs : Quiet s) (wl : Half) :
    QuietRun 3 (emptyReplyOps wl) s [] { s with usb.txState := .ram, usb.txTotal := 0 } := by
  rw [← State.transferring_zero s .ram wl]
  exact .start_transfer hs 0 .ram wl

/-- Settles O24: each of these requests is an empty reply. -/
theorem zeroLengthReplies : Obligations.ZeroLengthReplies := by
  intro s q r i hs hi
  have hops : exec i s = runInstr (emptyReplyOps r.wLength) s := by
    simp only [List.mem_cons, List.not_mem_nil, or_false] at hi
    rcases hi with rfl | rfl | rfl | rfl | rfl | rfl | rfl | rfl | rfl | rfl <;> rfl
  rw [hops]
  exact (QuietRun.empty_reply hs r.wLength).runInstr (by decide)

/-! ### SET_ADDRESS (R206) -/

theorem requestedAddress_eq (r : Setup) : requestedAddress r = BitVec.ofNat 7 (r.wValue.toNat % 128) := by
  apply BitVec.eq_of_toNat_eq
  simp [requestedAddress]

/-- Settles O25: the address is stored and marked pending, and an empty reply follows. -/
theorem setAddress : Obligations.SetAddress := by
  intro s r hs
  rw [← requestedAddress_eq]
  have hpending : Quiet { s with usb.newAddress := requestedAddress r, usb.addrPending := true } := hs
  have hstore := QuietRun.micro (op := .setNewAddress (requestedAddress r)) hs rfl
  have hrun := (hstore.seq (.micro (op := .setAddrPending true) hs rfl)).seq (.empty_reply hpending r.wLength)
  exact hrun.runInstr (by decide)

end Sys2Proof.Machine

/-! The replies with data: literal bytes served from the reply buffer (R204, R205, R208, R209; O26), and GET_DESCRIPTOR, which
serves them from there or from ROM (R207; O27). -/

namespace Sys2Proof.Machine

/-! ### The reply buffer (R39, R204) -/

/-- Bytes that fit the reply buffer, written from its first address on, are there, and no other address changes. -/
theorem storesReply_writeFrom {m : Memory} {bytes : List Byte} (hm : m.wf = true)
    (hfit : bytes.length ≤ Config.replyBufLen) : StoresReply m (m.writeFrom Config.replyBase bytes) bytes := by
  have hspace : Config.replyBase + bytes.length ≤ 2 ^ Config.cursorBits :=
    (Nat.add_le_add_left hfit _).trans Config.replyBuf_fits
  refine ⟨Memory.writeFrom_wf bytes m _ hm, fun j hj => ?_, fun a ha => ?_⟩
  · rw [Memory.writeFrom_read bytes m _ _ hm hspace, if_pos (by omega), Nat.add_sub_cancel_left]
  · rw [Memory.writeFrom_read bytes m _ _ hm hspace, if_neg (by omega)]

/-- The bytes of a reply are put one after the other, from the buffer's byte k on. -/
theorem QuietRun.put_replies : ∀ (bytes : List Byte) (k : Nat) {s : State}, Quiet s →
    QuietRun bytes.length (bytes.mapIdx fun j v => .putReply (j + k) v) s []
      { s with ram := s.ram.writeFrom (Config.replyBase + k) bytes }
  | [], _, s, _ => .nil s
  | b :: bytes, k, s, hs => by
    have hput : QuietRun 1 [.putReply (0 + k) b] s [] (putReply (0 + k) b s) := .micro hs rfl
    have hrest := put_replies bytes (k + 1) (s := putReply (0 + k) b s) hs
    have hrun := hput.seq hrest
    simp only [putReply, replyAddr, BitVec.toNat_ofNat, Nat.zero_add] at hrun
    rw [List.mapIdx_cons, List.length_cons, Nat.add_comm bytes.length]
    simpa only [Memory.writeFrom, Nat.zero_add, Nat.add_assoc, Nat.add_comm 1 k, List.singleton_append] using hrun

/-- A reply of bytes that fit the buffer: they are stored, the cursor is set to them, the transfer starts (R203, R204). -/
theorem QuietRun.serve_bytes {s : State} (hs : Quiet s) {bytes : List Byte} (hlen : bytes.length ≤ 254) (wl : Half) :
    QuietRun (bytes.length + 4) (serveDescriptorOps (.inRam bytes) wl) s []
      { s with
        ram := s.ram.writeFrom Config.replyBase bytes, usb.txCursor := BitVec.ofNat _ Config.replyBase
        usb.txState := .ram, usb.txTotal := clampedLength bytes.length wl } := by
  have hput := QuietRun.put_replies bytes 0 hs
  have hstored : Quiet (cursorToReply { s with ram := s.ram.writeFrom Config.replyBase bytes }) := hs
  have hcursor := hput.seq (.micro (op := .cursorToReply) hs rfl)
  have hrun := hcursor.seq (.start_transfer hstored (BitVec.ofNat 8 bytes.length) .ram wl)
  rw [BitVec.toNat_ofNat, Nat.mod_eq_of_lt (by omega), State.transferring_of_le hlen, List.append_assoc] at hrun
  exact hrun

/-- An instruction that serves bytes from the reply buffer. -/
theorem exists_storesReply_of_serve {i : Instr} {s : State} {bytes : List Byte} {wl : Half} (hs : Quiet s)
    (hm : s.ram.wf = true) (hfit : bytes.length ≤ Config.replyBufLen) (hlen : bytes.length ≤ 254)
    (hi : exec i s = runInstr (serveDescriptorOps (.inRam bytes) wl) s) :
    ∃ m, StoresReply s.ram m bytes ∧
      exec i s = .next
        { s with
          ram := m, usb.txCursor := BitVec.ofNat _ Config.replyBase, usb.txState := .ram
          usb.txTotal := clampedLength bytes.length wl } := by
  refine ⟨_, storesReply_writeFrom hm hfit, hi.trans ?_⟩
  exact (QuietRun.serve_bytes hs hlen wl).runInstr ((Nat.add_le_add_right hlen 4).trans (by decide))

/-! ### The fixed replies (R205, R208, R209) -/

theorem selfPoweredByte_eq : selfPoweredByte = if Config.selfPowered then 1 else 0 := by
  unfold selfPoweredByte
  cases Config.selfPowered <;> rfl

/-- Settles O26: each of these requests serves at most two literal bytes from the reply buffer. -/
theorem fixedStandardReplies : Obligations.FixedStandardReplies := by
  intro s r i reply hs hm hi
  have hserved : reply.length ≤ 2 ∧ exec i s = runInstr (serveDescriptorOps (.inRam reply) r.wLength) s := by
    rw [← selfPoweredByte_eq] at hi
    rcases hi with ⟨rfl, rfl⟩ | ⟨rfl, rfl⟩ | ⟨rfl, rfl⟩
    · exact ⟨le_rfl, rfl⟩
    · exact ⟨one_le_two, rfl⟩
    · exact ⟨one_le_two, rfl⟩
  obtain ⟨hshort, hexec⟩ := hserved
  have hbuf := Config.four_le_replyBufLen
  exact exists_storesReply_of_serve hs hm (by omega) (by omega) hexec

/-! ### GET_DESCRIPTOR (R207) -/

/-- A table in ROM is never as long as the sentinel. -/
theorem descriptors_inRom {dtype dindex : Byte} {wi : Half} {serial : List Byte} {a n : Nat}
    (h : Config.descriptors dtype dindex wi serial = .inRom a n) : n ≤ 254 := by
  unfold Config.descriptors Config.Descriptor.admitted at h
  split at h
  · cases h
  · split at h <;> cases h
    assumption
  · split at h <;> cases h

/-- A composed string is never as long as the sentinel, and fits the reply buffer. -/
theorem descriptors_inRam {dtype dindex : Byte} {wi : Half} {serial bytes : List Byte}
    (h : Config.descriptors dtype dindex wi serial = .inRam bytes) :
    bytes.length ≤ 254 ∧ bytes.length ≤ Config.replyBufLen := by
  unfold Config.descriptors Config.Descriptor.admitted at h
  split at h
  · cases h
  · split at h <;> cases h
  · split at h <;> cases h
    assumption

/-- The three serial digits are read one after the other, then the descriptor is served (R42, R207). -/
theorem QuietRun.get_descriptor {s : State} (hs : Quiet s) (dtype dindex : Byte) (wi wl : Half) :
    QuietRun 3 [.getDescriptor dtype dindex wi wl []] s
      (serveDescriptorOps (Config.descriptors dtype dindex wi (serialDigits s.cal.nvSerial)) wl) s :=
  ((micro hs rfl).trans (micro hs rfl)).trans (micro hs rfl)

/-- GET_DESCRIPTOR is the serving of what DESCRIPTORS gives. -/
theorem exec_stdGetDescriptor {s t : State} {r : Setup} {d : Config.Descriptor} {n : Nat} (hs : Quiet s)
    (hd : Config.descriptors (hi8 r.wValue) (lo8 r.wValue) r.wIndex (serialDigits s.cal.nvSerial) = d)
    (hserve : QuietRun n (serveDescriptorOps d r.wLength) s [] t) (hn : 3 + n ≤ opFuel) :
    exec (.stdGetDescriptor r) s = .next t := by
  have hread := QuietRun.get_descriptor hs (hi8 r.wValue) (lo8 r.wValue) r.wIndex r.wLength
  rw [hd] at hread
  exact (hread.trans hserve).runInstr hn

/-- A table in ROM: the cursor is set to it, and the transfer starts. -/
theorem QuietRun.serve_rom {s : State} (hs : Quiet s) (a : Nat) {n : Nat} (hn : n ≤ 254) (wl : Half) :
    QuietRun 4 (serveDescriptorOps (.inRom a n) wl) s []
      { s with usb.txCursor := BitVec.ofNat _ a, usb.txState := .rom, usb.txTotal := clampedLength n wl } := by
  have hset : Quiet { s with usb.txCursor := BitVec.ofNat _ a } := hs
  have hcursor := QuietRun.micro (op := .setCursor (BitVec.ofNat _ a)) hs rfl
  have hrun := hcursor.seq (.start_transfer hset (BitVec.ofNat 8 n) .rom wl)
  rw [BitVec.toNat_ofNat, Nat.mod_eq_of_lt (by omega), State.transferring_of_le hn] at hrun
  exact hrun

/-- Settles O27: by what DESCRIPTORS gives. -/
theorem getDescriptor : Obligations.GetDescriptor := by
  intro s r hs hm
  split
  · next hd => exact exec_stdGetDescriptor hs hd (.empty_reply hs r.wLength) (by decide)
  · next a n hd =>
    have hn : n ≤ 254 := descriptors_inRom hd
    exact ⟨hn, exec_stdGetDescriptor hs hd (.serve_rom hs a hn r.wLength) (by decide)⟩
  · next bytes hd =>
    obtain ⟨hlen, hfit⟩ := descriptors_inRam hd
    have hfuel : 3 + (bytes.length + 4) ≤ opFuel := by unfold opFuel; omega
    exact ⟨_, storesReply_writeFrom hm hfit, exec_stdGetDescriptor hs hd (.serve_bytes hs hlen r.wLength) hfuel⟩

end Sys2Proof.Machine

/-! A standard request, or one of the reserved type, has no step that acts on the bridge, the I2C lines or the calibrator
(R202, R211; O34). -/

namespace Sys2Proof.Machine

/-- The steps of the dispatcher's own handlers: the reply buffer, the transfer, the pending address and the descriptor
(R203 to R209). -/
def MicroOp.ofHandler : MicroOp → Bool
  | .putReply _ _ | .setCursor _ | .cursorToReply | .startTransfer _ _ _ | .setTxState _ | .setTxTotal _
  | .setNewAddress _ | .setAddrPending _ | .getDescriptor _ _ _ _ _ => true
  | _ => false

/-- The bridge, the I2C lines and the calibrator are as they were. -/
structure BridgeKept (s t : State) : Prop where
  bridge : t.bridge = s.bridge
  pins   : t.pins = s.pins
  cal    : t.cal = s.cal

theorem BridgeKept.tick {s t : State} (h : BridgeKept s t) : BridgeKept s (tick t) :=
  ⟨(tick_bridge t).trans h.bridge, (tick_pins t).trans h.pins, (tick_cal t).trans h.cal⟩

theorem startTransferOps_ofHandler (r : Byte) (src : TxState) (wl : Half) :
    (startTransferOps r src wl).all MicroOp.ofHandler = true := by
  rw [startTransferOps_eq]
  rfl

theorem serveDescriptorOps_ofHandler (d : Config.Descriptor) (wl : Half) :
    (serveDescriptorOps d wl).all MicroOp.ofHandler = true := by
  cases d with
  | absent => rfl
  | inRom a n => rfl
  | inRam bytes =>
    have hput : (bytes.mapIdx fun j v => .putReply j v).all MicroOp.ofHandler = true := by
      rw [List.all_eq_true]
      intro op hop
      obtain ⟨j, hj, rfl⟩ := List.mem_mapIdx.mp hop
      rfl
    rw [serveDescriptorOps, List.all_append, hput]
    rfl

theorem getDescriptorOps_ofHandler (s : State) (dtype dindex : Byte) (wi wl : Half) (digits : List Byte) :
    (getDescriptorOps s dtype dindex wi wl digits).all MicroOp.ofHandler = true := by
  unfold getDescriptorOps
  split
  · rfl
  · rfl
  · exact serveDescriptorOps_ofHandler _ wl

/-- A handler's step leads to steps of the handlers, and leaves the bridge, the lines and the calibrator. -/
theorem microStep_ofHandler {op : MicroOp} {s t : State} {more : List MicroOp} (hop : op.ofHandler = true)
    (h : microStep op s = .go more t) : more.all MicroOp.ofHandler = true ∧ BridgeKept s t := by
  cases op
  case startTransfer r src wl => cases h; exact ⟨startTransferOps_ofHandler r src wl, rfl, rfl, rfl⟩
  case getDescriptor dt di wi wl digits =>
    cases h
    exact ⟨getDescriptorOps_ofHandler _ dt di wi wl digits, rfl, rfl, rfl⟩
  case putReply | setCursor | cursorToReply | setTxState | setTxTotal | setNewAddress | setAddrPending =>
    cases h
    exact ⟨rfl, rfl, rfl, rfl⟩
  all_goals cases hop

/-- However far steps of the handlers run, and whatever the environment does meanwhile, the bridge, the lines and the
calibrator stay. -/
theorem runOps_ofHandler {n : Nat} {ops : List MicroOp} {s t : State} (hops : ops.all MicroOp.ofHandler = true)
    (h : runOps n ops s = .next t) : BridgeKept s t := by
  obtain ⟨ops', s', ⟨-, hkept⟩, rfl⟩ :=
    runOps_invariant (fun ops u => ops.all MicroOp.ofHandler = true ∧ BridgeKept s u)
      (fun op rest u more u' ⟨hall, hkept⟩ _ hm => by
        obtain ⟨hop, hrest⟩ : op.ofHandler = true ∧ rest.all MicroOp.ofHandler = true := by simpa using hall
        obtain ⟨hmore, hstep⟩ := microStep_ofHandler hop hm
        refine ⟨by rw [List.all_append, hmore, hrest]; rfl, BridgeKept.tick ?_⟩
        exact ⟨hstep.bridge.trans hkept.bridge, hstep.pins.trans hkept.pins, hstep.cal.trans hkept.cal⟩)
      (fun op rest u ⟨hall, hkept⟩ _ => ⟨hall, hkept.tick⟩) n ops s t ⟨hops, rfl, rfl, rfl⟩ h
  exact ⟨hkept.bridge, hkept.pins, hkept.cal⟩

/-- Settles O34: each of these requests is made of the handlers' steps. -/
theorem standardRequestsLeaveBridge : Obligations.StandardRequestsLeaveBridge := by
  intro s t q r i hi h
  have hops : ∃ ops, exec i s = runInstr ops s ∧ ops.all MicroOp.ofHandler = true := by
    simp only [List.mem_cons, List.not_mem_nil, or_false] at hi
    rcases hi with rfl | rfl | rfl | rfl | rfl | rfl | rfl | rfl | rfl | rfl | rfl | rfl | rfl <;> exact ⟨_, rfl, rfl⟩
  obtain ⟨ops, hexec, hall⟩ := hops
  obtain ⟨hbridge, hpins, hcal⟩ := runOps_ofHandler hall (hexec.symm.trans h)
  exact ⟨hbridge, hpins, hcal⟩

end Sys2Proof.Machine

/-! The I2C counter is never decremented at 0 (O54): a decrement becomes pending only where the counter still has one to
spare, and behind a step that loads the counter none is pending. -/

namespace Sys2Proof.Machine

/-! ### The pending decrements -/

/-- A step that neither decrements the counter, nor loads it or takes a share of it, nor is on the way to that. -/
def MicroOp.sparesCounter (op : MicroOp) : Bool := !op.moves && !op.loads

@[simp] theorem pendingMoves_cons (op : MicroOp) (ops : List MicroOp) :
    pendingMoves (op :: ops) = op.moves.toNat + pendingMoves ops := by
  cases h : op.moves <;> simp [pendingMoves, h, Nat.add_comm]

@[simp] theorem pendingMoves_append (a b : List MicroOp) : pendingMoves (a ++ b) = pendingMoves a + pendingMoves b :=
  List.countP_append

theorem pendingMoves_of_spares {ops : List MicroOp} (h : ops.all MicroOp.sparesCounter = true) :
    pendingMoves ops = 0 := by
  induction ops with
  | nil => rfl
  | cons op rest ih =>
    obtain ⟨⟨hmoves, -⟩, hrest⟩ : (op.moves = false ∧ op.loads = false) ∧ rest.all MicroOp.sparesCounter = true := by
      simpa [MicroOp.sparesCounter] using h
    rw [pendingMoves_cons, hmoves, ih hrest]
    rfl

theorem noLoads_of_spares {ops : List MicroOp} (h : ops.all MicroOp.sparesCounter = true) :
    ops.any MicroOp.loads = false := by
  simp only [List.any_eq_false, List.all_eq_true, MicroOp.sparesCounter, Bool.and_eq_true, Bool.not_eq_true'] at h ⊢
  intro op hmem
  rw [(h op hmem).2]
  exact Bool.false_ne_true

/-- A list in order, behind another one in order: no decrement is pending behind a step of the first that loads. -/
theorem counterOrdered_append {a b : List MicroOp} (ha : counterOrdered a = true) (hb : counterOrdered b = true)
    (h : a.any MicroOp.loads = false ∨ pendingMoves b = 0) : counterOrdered (a ++ b) = true := by
  induction a with
  | nil => exact hb
  | cons op a ih =>
    obtain ⟨hop, hrest⟩ : (op.loads = true → pendingMoves a = 0) ∧ counterOrdered a = true := by
      simpa [counterOrdered, or_iff_not_imp_left] using ha
    have hb' : op.loads = true → pendingMoves b = 0 := fun hl =>
      h.resolve_left fun hnone => by simp [hl] at hnone
    have htail : a.any MicroOp.loads = false ∨ pendingMoves b = 0 := h.imp_left fun hnone => by
      rw [List.any_cons, Bool.or_eq_false_iff] at hnone
      exact hnone.2
    simpa [counterOrdered, or_iff_not_imp_left, ih hrest htail] using fun hl => ⟨hop hl, hb' hl⟩

/-- With no decrement pending there is nothing to order. -/
theorem counterOrdered_of_noMoves {ops : List MicroOp} (h : pendingMoves ops = 0) : counterOrdered ops = true := by
  induction ops with
  | nil => rfl
  | cons op rest ih =>
    rw [pendingMoves_cons, Nat.add_eq_zero_iff] at h
    obtain ⟨-, hrest⟩ := h
    simp [counterOrdered, hrest, ih hrest]

/-- The same with no step that loads. -/
theorem counterOrdered_of_noLoads {ops : List MicroOp} (h : ops.any MicroOp.loads = false) :
    counterOrdered ops = true := by
  induction ops with
  | nil => rfl
  | cons op rest ih =>
    obtain ⟨hop, hrest⟩ : op.loads = false ∧ rest.any MicroOp.loads = false := by simpa using h
    simp [counterOrdered, hop, ih hrest]

/-! ### The steps that a step leads to -/

/-- The steps `more` that a step leads to, in the state s' after it, fit into the counter: they are in order; where the step
loads the counter or takes a share of it, they decrement what the counter has; where it does not, neither do they,
and they decrement no more than the step was to. -/
structure FitsCounter (op : MicroOp) (s' : State) (more : List MicroOp) : Prop where
  ordered : counterOrdered more = true
  share   : op.loads = true → pendingMoves more ≤ s'.bridge.remaining.toNat
  loads   : op.loads = false → more.any MicroOp.loads = false
  moves   : op.loads = false → pendingMoves more ≤ op.moves.toNat

/-- Steps that have nothing to do with the counter fit everywhere. -/
theorem FitsCounter.of_spares {op : MicroOp} {s : State} {more : List MicroOp}
    (h : more.all MicroOp.sparesCounter = true) : FitsCounter op s more where
  ordered := counterOrdered_of_noMoves (pendingMoves_of_spares h)
  share := fun _ => by rw [pendingMoves_of_spares h]; exact Nat.zero_le _
  loads := fun _ => noLoads_of_spares h
  moves := fun _ => by rw [pendingMoves_of_spares h]; exact Nat.zero_le _

/-- A loading step may lead to any steps that decrement nothing. -/
theorem FitsCounter.of_noMoves {op : MicroOp} {s : State} {more : List MicroOp} (hop : op.loads = true)
    (h : pendingMoves more = 0) : FitsCounter op s more where
  ordered := counterOrdered_of_noMoves h
  share := fun _ => by rw [h]; exact Nat.zero_le _
  loads := fun hno => by rw [hop] at hno; cases hno
  moves := fun hno => by rw [hop] at hno; cases hno

theorem moves_of_ofRequest {op : MicroOp} (h : op.ofRequest = true) : op.moves = false := by
  cases op
  case decRemaining | readByte => cases h
  all_goals rfl

theorem pendingMoves_of_ofRequest {ops : List MicroOp} (h : ops.all MicroOp.ofRequest = true) :
    pendingMoves ops = 0 :=
  List.countP_eq_zero.mpr fun op hmem => by
    rw [moves_of_ofRequest (List.all_eq_true.mp h op hmem)]
    exact Bool.false_ne_true

theorem sparesCounter_of_ofLine {op : MicroOp} (h : op.ofLine = true) : op.sparesCounter = true := by
  cases op
  case setDirection | setLine | delay | waitScl | sampleAck | clearByte | sampleBit => rfl
  all_goals cases h

theorem sparesCounter_of_ofHandler {op : MicroOp} (h : op.ofHandler = true) : op.sparesCounter = true := by
  cases op
  case putReply | setCursor | cursorToReply | startTransfer | setTxState | setTxTotal => rfl
  case setNewAddress | setAddrPending | getDescriptor => rfl
  all_goals cases h

/-- A sequencer command moves lines, not the counter. -/
theorem i2cCmdOps_sparesCounter {w : BitVec 11} {ops : List MicroOp} (h : i2cCmdOps w = some ops) :
    ops.all MicroOp.sparesCounter = true := by
  unfold i2cCmdOps at h
  split at h <;> cases h
  · rfl
  · rfl
  · rfl
  · exact List.all_eq_true.mpr fun op hmem => sparesCounter_of_ofLine (List.all_eq_true.mp (writeOps_ofLine _) op hmem)
  · rfl
  · rfl

theorem calCmdOps_sparesCounter {w : BitVec 2} {ops : List MicroOp} (h : calCmdOps w = some ops) :
    ops.all MicroOp.sparesCounter = true := by
  unfold calCmdOps at h
  split_ifs at h <;> cases h <;> rfl

theorem calNeighbourOps_sparesCounter (trial : Byte) : (calNeighbourOps trial).all MicroOp.sparesCounter = true := by
  rw [calNeighbourOps, List.all_append, List.all_flatMap]
  exact Bool.and_eq_true_iff.mpr ⟨List.all_eq_true.mpr fun _ _ => rfl, rfl⟩

theorem getDescriptorOps_sparesCounter (s : State) (dtype dindex : Byte) (wi wl : Half) (digits : List Byte) :
    (getDescriptorOps s dtype dindex wi wl digits).all MicroOp.sparesCounter = true :=
  List.all_eq_true.mpr fun op hmem =>
    sparesCounter_of_ofHandler (List.all_eq_true.mp (getDescriptorOps_ofHandler s dtype dindex wi wl digits) op hmem)

theorem s1TakeOps_noMoves (len : Byte) (k : Bool) (token : Byte) : pendingMoves (s1TakeOps len k token) = 0 := by
  unfold s1TakeOps s1SetupOps s1OutOps
  dsimp only
  split_ifs <;> rfl

theorem pendingMoves_map_of {α : Type} {f : α → MicroOp} {b : Bool} (hf : ∀ x, (f x).moves = b) (l : List α) :
    pendingMoves (l.map f) = l.length * b.toNat := by
  induction l with
  | nil => simp [pendingMoves]
  | cons x l ih => rw [List.map_cons, pendingMoves_cons, hf, ih, List.length_cons, Nat.succ_mul, Nat.add_comm]

theorem noLoads_map {α : Type} {f : α → MicroOp} (hf : ∀ x, (f x).loads = false) (l : List α) :
    (l.map f).any MicroOp.loads = false := by simp [hf]

/-- A refill from memory, and the start of one from a callback, decrement nothing (R162 to R164). -/
theorem refillOps_noMoves (s : State) : pendingMoves (refillOps s) = 0 := by
  have hfrom : ∀ f : Nat → MicroOp, (∀ i, (f i).moves = false) →
      pendingMoves ((List.range (capacity s)).map f ++ [.advanceCursor (capacity s)] ++ refillEndOps (capacity s)) =
        0 := by
    intro f hf
    rw [pendingMoves_append, pendingMoves_append, pendingMoves_map_of hf]
    rfl
  unfold refillOps
  split
  · rfl
  · exact hfrom .copyRam fun _ => rfl
  · exact hfrom .copyRom fun _ => rfl
  · rfl

theorem s2TakeOps_noMoves (s : State) (len : Byte) : pendingMoves (s2TakeOps s len) = 0 := by
  rw [s2TakeOps, pendingMoves_append]
  split
  · rw [refillOps_noMoves]; rfl
  · rfl

/-- The read callback takes no more bytes than the counter has (R245, R254). -/
theorem readCallbackOps_fits (cap : Nat) (s : State) : FitsCounter (.readCallback cap) s (readCallbackOps s cap) := by
  have hend : ∀ k, pendingMoves (refillEndOps k) = 0 := fun _ => rfl
  unfold readCallbackOps
  split
  · dsimp only
    refine ⟨counterOrdered_of_noLoads ?_, fun _ => ?_, nofun, nofun⟩
    · rw [List.any_append, List.any_append, noLoads_map fun _ => rfl]
      rfl
    · rw [pendingMoves_append, pendingMoves_append, hend, pendingMoves_map_of (b := true) fun _ => rfl, List.length_range]
      exact (Nat.mul_one _).trans_le (Nat.min_le_right _ _)
  · refine .of_noMoves rfl ?_
    dsimp only
    rw [pendingMoves_append, pendingMoves_map_of (b := false) fun _ => rfl, hend]
    rfl

/-- The write callback's loop decrements only a counter that is not 0 (R250, R254). -/
theorem writeLoopOps_fits (k : Bool) (m j : Nat) (s : State) :
    FitsCounter (.writeLoop k m j) s (writeLoopOps s k m j) := by
  unfold writeLoopOps
  split
  · next hmore =>
    refine ⟨rfl, fun _ => ?_, nofun, nofun⟩
    exact Nat.one_le_iff_ne_zero.mpr fun hzero => hmore.2 (BitVec.eq_of_toNat_eq hzero)
  · exact .of_noMoves rfl rfl

/-- Every step leads to steps that fit into the counter. -/
theorem microStep_fitsCounter {op : MicroOp} {s s' : State} {more : List MicroOp} (h : microStep op s = .go more s') :
    FitsCounter op s' more := by
  cases op
  case i2cCmd => exact .of_spares (i2cCmdOps_sparesCounter (issue_go h).1)
  case calCmd => exact .of_spares (calCmdOps_sparesCounter (issue_go h).1)
  case dispatch => cases h
  case s1Len | s1Sel | s1Token | s2Len => cases h; exact .of_noMoves rfl rfl
  case s1Take => cases h; exact .of_noMoves rfl (s1TakeOps_noMoves _ _ _)
  case s2Take => cases h; exact .of_noMoves rfl (s2TakeOps_noMoves _ _)
  case readSetup k read =>
    cases h; exact .of_noMoves rfl (by unfold readSetupOps; dsimp only; split <;> rfl)
  case writeCallback k m => cases h; exact .of_noMoves rfl (by unfold writeCallbackOps; split <;> rfl)
  case writeLoop k m j => cases h; exact writeLoopOps_fits k m j s
  case readCallback cap => cases h; exact readCallbackOps_fits cap s
  case ioAddress b e rd a n =>
    cases h; exact .of_noMoves rfl (pendingMoves_of_ofRequest (ioAddressOps_request _ b e rd a n).kind)
  case setRemaining => cases h; exact .of_noMoves rfl rfl
  case readByte => cases h; exact ⟨rfl, nofun, fun _ => rfl, fun _ => le_rfl⟩
  case getDescriptor => cases h; exact .of_spares (getDescriptorOps_sparesCounter _ _ _ _ _ _)
  case calNeighbours => cases h; exact .of_spares (calNeighbourOps_sparesCounter _)
  case sampleDm => cases h; exact .of_spares (all_ite_of rfl (all_ite_of rfl rfl))
  case stopIfDone | appendCrc | addressCommit | calibrateOnce | startTransfer | ioReply | calLoad | calCompare =>
    cases h; exact .of_spares (all_ite_of rfl rfl)
  case rstartCheck | waitScl | measureOpen | measureEnd =>
    simp only [microStep] at h; split at h <;> cases h; exact .of_spares rfl
  all_goals cases h; exact .of_spares rfl

/-- POLL writes the counter with two steps only: the decrement and the load (R242, R254). -/
theorem microStep_remaining {op : MicroOp} {s t : State} {more : List MicroOp} (hdec : op ≠ .decRemaining)
    (hop : op.loads = false) (h : microStep op s = .go more t) : t.bridge.remaining = s.bridge.remaining := by
  cases op
  case decRemaining => exact absurd rfl hdec
  case setRemaining => cases hop
  case dispatch => cases h
  case i2cCmd | calCmd => obtain ⟨-, rfl⟩ := issue_go h; rfl
  case setDirection l m => cases h; rw [setDirection_bridge]
  case setLine l v => cases h; rw [setLine_bridge]
  case endIfShort | noteWriteAck => cases h; split <;> rfl
  case calKeep => cases h; rw [calKeep_bridge]
  case rstartCheck | waitScl | measureOpen | measureEnd => simp only [microStep] at h; split at h <;> cases h; rfl
  all_goals cases h; rfl

/-! ### The counter along POLL -/

/-- A decrement that is pending takes exactly 1: the counter has one to spare (R254). -/
theorem CounterOk.dec_toNat {s : State} {rest : List MicroOp} (h : CounterOk s)
    (hcont : s.poll.cont = .decRemaining :: rest) :
    (s.bridge.remaining - 1).toNat + 1 = s.bridge.remaining.toNat := by
  have henough : 1 + pendingMoves rest ≤ s.bridge.remaining.toNat := by
    have h' := h.enough
    rwa [hcont, pendingMoves_cons] at h'
  have hpos : 1 ≤ s.bridge.remaining.toNat := (Nat.le_add_right 1 _).trans henough
  bv_omega

/-- The bound depends on the counter and on what POLL is about to do. -/
theorem CounterOk.of_cont {s t : State} (h : CounterOk s) (hcont : t.poll.cont = s.poll.cont)
    (hremaining : t.bridge.remaining = s.bridge.remaining) : CounterOk t where
  enough := by rw [hcont, hremaining]; exact h.enough
  ordered := hcont ▸ h.ordered

/-- An atomic step keeps the bound: behind one that loads the counter nothing is pending but what it leads to, a
decrement uses up its own share, and every other step leaves the counter. -/
theorem CounterOk.micro {op : MicroOp} {rest more : List MicroOp} {s t : State}
    (h : CounterOk { s with poll.cont := op :: rest }) (hm : microStep op s = .go more t) :
    CounterOk { t with poll.cont := more ++ rest } := by
  have hfits := microStep_fitsCounter hm
  have henough : op.moves.toNat + pendingMoves rest ≤ s.bridge.remaining.toNat := by
    rw [← pendingMoves_cons]
    exact h.enough
  obtain ⟨hbehind, hrest⟩ : (op.loads = true → pendingMoves rest = 0) ∧ counterOrdered rest = true := by
    simpa [counterOrdered, or_iff_not_imp_left] using h.ordered
  refine ⟨?_, counterOrdered_append hfits.ordered hrest ?_⟩
  · dsimp only
    rw [pendingMoves_append]
    cases hl : op.loads with
    | true =>
      rw [hbehind hl]
      exact hfits.share hl
    | false =>
      by_cases hdec : op = .decRemaining
      · subst hdec
        have hone : (s.bridge.remaining - 1).toNat + 1 = s.bridge.remaining.toNat := h.dec_toNat rfl
        cases hm
        have hshare : 1 + pendingMoves rest ≤ s.bridge.remaining.toNat := henough
        change pendingMoves [] + pendingMoves rest ≤ (s.bridge.remaining - 1).toNat
        rw [show pendingMoves [] = 0 from rfl]
        omega
      · rw [microStep_remaining hdec hl hm]
        exact (Nat.add_le_add_right (hfits.moves hl) _).trans henough
  · cases hl : op.loads with
    | true => exact .inr (hbehind hl)
    | false => exact .inl (hfits.loads hl)

/-- Nothing is pending behind the dispatch of a request. -/
theorem CounterOk.behind_dispatch {payload : List Byte} {rest : List MicroOp} {s : State}
    (h : CounterOk { s with poll.cont := .dispatch payload :: rest }) : pendingMoves rest = 0 := by
  obtain ⟨hbehind, -⟩ := Bool.and_eq_true_iff.mp h.ordered
  exact beq_iff_eq.mp hbehind

theorem CounterOk.of_noMoves {s : State} (h : pendingMoves s.poll.cont = 0) : CounterOk s :=
  ⟨by rw [h]; exact Nat.zero_le _, counterOrdered_of_noMoves h⟩

/-- The bound on the counter is an invariant of POLL. -/
theorem CounterOk.invariant : PollInvariant CounterOk where
  micro := CounterOk.micro
  dispatch := by
    intro payload i ops rest s h hd hops
    obtain ⟨ops', hops', hreq⟩ := instrOps_request (decodeRequest_port hd)
    cases hops.symm.trans hops'
    refine .of_noMoves ?_
    dsimp only
    rw [pendingMoves_append, pendingMoves_of_ofRequest hreq.kind, h.behind_dispatch]
  drop := fun h => .of_noMoves h.behind_dispatch
  phase := by
    intro s _ _
    cases hp : s.poll.phase <;> exact .of_noMoves rfl
  env := fun h => h.of_cont (by rw [tick_poll]) (by rw [tick_bridge])

/-! ### The counter along every step -/

theorem OutsideEffect.bridge {s v : State} (h : OutsideEffect s v) : v.bridge = s.bridge := by
  rw [← h.owned]
  rfl

theorem CounterOk.of_outside {s v : State} (h : CounterOk s) (hv : OutsideEffect s v) : CounterOk (tick v) :=
  h.of_cont (by rw [tick_poll, hv.poll]) (by rw [tick_bridge, hv.bridge])

theorem CounterOk.step {s t : State} (h : CounterOk s) (hs : step s = .next t) : CounterOk t := by
  cases ha : s.irq.active with
  | true =>
    obtain ⟨v, rfl, hv, -⟩ := step_isr_effect ha hs
    exact h.of_outside hv
  | false =>
    cases hi : interruptDue s with
    | true => rw [step_interrupt hi hs]; exact h.of_outside (.interruptEntry s)
    | false => exact CounterOk.invariant.step ha hi h hs

/-- Settles O54: POLL keeps the bound by its atomic steps, the ISR leaves the counter alone, and where a decrement is
pending the bound says that the counter is not 0. -/
theorem counterNeverWraps : Obligations.CounterNeverWraps := by
  intro s t h hs
  refine ⟨h.step hs, ?_⟩
  rintro ha hi ⟨rest, hcont⟩
  have hpending : pollSteps s = .decRemaining :: rest := by rw [pollSteps, hcont]; rfl
  rw [step_plain ha hi hpending rfl] at hs
  cases hs
  rw [tick_bridge]
  exact h.dec_toNat hcont

end Sys2Proof.Machine

/-! The vendor commands with a literal reply, and SET_DELAY, as vendor and as class requests (R231 to R236; O28, O29). -/

namespace Sys2Proof.Machine

/-! ### The literal replies (R233 to R235) -/

theorem lo8_eq_ofNat (v : Half) : lo8 v = BitVec.ofNat 8 (v.toNat % 256) :=
  BitVec.eq_of_toNat_eq (by rw [lo8_toNat, BitVec.toNat_ofNat]; omega)

theorem hi8_eq_ofNat (v : Half) : hi8 v = BitVec.ofNat 8 (v.toNat / 256) :=
  BitVec.eq_of_toNat_eq (by rw [hi8_toNat, BitVec.toNat_ofNat]; omega)

/-- GET_STATUS puts the code of the last address phase, and serves that byte from the reply buffer (R235). -/
theorem runInstr_getStatusOps {s : State} (hs : Quiet s) (r : Setup) :
    runInstr (getStatusOps r) s = runInstr (serveDescriptorOps (.inRam [statusCode s.bridge.status]) r.wLength) s := by
  obtain ⟨-, -, hdue⟩ := hs
  have hstatus : microStep .putReplyStatus s = .go [] (putReply 0 (statusCode s.bridge.status) s) := rfl
  have hbyte : microStep (.putReply 0 (statusCode s.bridge.status)) s =
    .go [] (putReply 0 (statusCode s.bridge.status) s) := rfl
  exact (runOps_go (n := 511) hdue hstatus).trans (runOps_go (n := 511) hdue hbyte).symm

/-- Settles O28: each of these commands serves at most four literal bytes from the reply buffer. -/
theorem literalVendorReplies : Obligations.LiteralVendorReplies := by
  intro s r i reply hs hm hi
  have hserved : reply.length ≤ 4 ∧ exec i s = runInstr (serveDescriptorOps (.inRam reply) r.wLength) s := by
    rw [← lo8_eq_ofNat, ← hi8_eq_ofNat] at hi
    rcases hi with ⟨hi, rfl⟩ | ⟨hi, rfl⟩ | ⟨hi, rfl⟩
    · exact ⟨Nat.le_of_ble_eq_true rfl, by rcases hi with rfl | rfl <;> rfl⟩
    · exact ⟨le_rfl, by rcases hi with rfl | rfl <;> rfl⟩
    · exact ⟨Nat.le_of_ble_eq_true rfl, by rcases hi with rfl | rfl <;> exact runInstr_getStatusOps hs r⟩
  obtain ⟨hshort, hexec⟩ := hserved
  have hbuf := Config.four_le_replyBufLen
  exact exists_storesReply_of_serve hs hm (by omega) (by omega) hexec

/-! ### SET_DELAY (R236) -/

theorem atLeastOne_toNat (v : Half) : (atLeastOne v).toNat = max 1 v.toNat := by
  unfold atLeastOne
  split
  · next h => rw [h]; rfl
  · next h =>
    have hne : v.toNat ≠ 0 := fun hzero => h (BitVec.eq_of_toNat_eq hzero)
    omega

/-- A reply of no bytes that the cursor is set for (R231, R244). -/
theorem QuietRun.literal_zero {s : State} (hs : Quiet s) (wl : Half) :
    QuietRun 4 [.cursorToReply, .startTransfer 0 .ram wl] s []
      { s with usb.txCursor := BitVec.ofNat _ Config.replyBase, usb.txState := .ram, usb.txTotal := 0 } := by
  have hset : Quiet (cursorToReply s) := hs
  have hcursor := QuietRun.micro (op := .cursorToReply) hs rfl
  exact hcursor.seq (.empty_reply hset wl)

/-- The two delays are set one after the other (R236). -/
theorem QuietRun.set_delay {s : State} (hs : Quiet s) (d : Half) :
    QuietRun 3 [.setDelay d] s []
      { s with
        bridge.fullDelay := atLeastOne (Config.delayScale d)
        bridge.halfDelay := atLeastOne (atLeastOne (Config.delayScale d) / 2) } := by
  have hlead := QuietRun.micro (op := .setDelay d) hs rfl
  have hfull := QuietRun.micro (op := .setFullDelay (atLeastOne (Config.delayScale d))) hs rfl
  exact hlead.trans (hfull.seq (.micro hs rfl))

/-- Settles O29: the delays are set, then a reply of no bytes follows. -/
theorem setDelay : Obligations.SetDelay := by
  intro s r i hs hi
  have hexec : exec i s = runInstr (setDelayOps r) s := by rcases hi with rfl | rfl <;> rfl
  refine ⟨atLeastOne (Config.delayScale r.wValue), atLeastOne (atLeastOne (Config.delayScale r.wValue) / 2),
    atLeastOne_toNat _, ?_, ?_⟩
  · rw [atLeastOne_toNat, BitVec.toNat_udiv]
    rfl
  · rw [hexec]
    have hdelays := QuietRun.set_delay hs r.wValue
    have hreply := QuietRun.literal_zero (s := { s with
      bridge.fullDelay := atLeastOne (Config.delayScale r.wValue)
      bridge.halfDelay := atLeastOne (atLeastOne (Config.delayScale r.wValue) / 2) }) hs r.wLength
    exact (hdelays.seq hreply).runInstr (by decide)

end Sys2Proof.Machine

/-! I2C_IO: the start condition, the address byte, and what its acknowledge decides, undisturbed in one step of the machine
(R240 to R244; O31), and the fault of a repeated start that is undefined (R281; O32). -/

namespace Sys2Proof.Machine

/-! ### START and RSTART on the lines (R280, R281) -/

/-- Pulling SDA low is a START condition exactly where both lines were released (R116). -/
theorem LineRun.pull_sda (b : Bridge) (e : Env) (q : Lines) :
    LineRun (pullLow .sda) b e q { q with sda := false } [] (if q.sda && q.scl then [.start] else []) := by
  obtain ⟨sda, scl, ack, byte⟩ := q
  cases sda
  · exact ⟨[], .nil _ _, fun s _ _ => by cases scl <;> rfl⟩
  · cases scl
    · exact ⟨[.drive false false], ⟨fun _ => rfl, fun _ => rfl⟩, fun s _ _ => rfl⟩
    · exact ⟨[.drive false true], ⟨fun _ => rfl, fun _ => rfl⟩, fun s _ _ => rfl⟩

theorem LineRun.pull_scl (b : Bridge) (e : Env) (q : Lines) :
    LineRun (pullLow .scl) b e q { q with scl := false } [] [] := by
  obtain ⟨sda, scl, ack, byte⟩ := q
  cases scl
  · exact ⟨[], .nil _ _, fun s _ _ => by cases sda <;> rfl⟩
  · cases sda
    · exact ⟨[.drive false false], ⟨fun _ => rfl, fun _ => rfl⟩, fun s _ _ => rfl⟩
    · exact ⟨[.drive true false], ⟨fun _ => rfl, fun _ => rfl⟩, fun s _ _ => rfl⟩

/-- `i2c_start` ends with both lines held low, and clocks nothing out. -/
theorem LineRun.start (b : Bridge) (e : Env) (q : Lines) :
    LineRun startOps b e q { q with sda := false, scl := false } [] (if q.sda && q.scl then [.start] else []) := by
  have hrun := (((pull_sda b e q).append (delay b _ _ .half)).append (pull_scl b _ _)).append (delay b _ _ .half)
  simp only [List.append_nil] at hrun
  exact hrun

/-- `i2c_rstart` from SCL low, behind its check: SDA is released before SCL, so a 1 is clocked out, then a start follows from
the idle bus. -/
theorem LineRun.rstart {b : Bridge} {e : Env} {q : Lines} (he : e.NoStretch) (hscl : q.scl = false) :
    LineRun rstartOps.tail b e q { q with sda := false, scl := false } [true] [.start] := by
  have hrelease := ((setSda_low b e hscl true).append (delay b _ _ .half)).append (sclHigh (he.iterate _) hscl)
  exact (hrelease.append (delay b _ _ .half)).append (start b _ _)

/-! ### Commands within an instruction -/

/-- Steps on the lines alone, within an undisturbed instruction. -/
theorem QuietRun.of_lineRun {ops : List MicroOp} {s t : State} (hs : Quiet s) (hops : ops.all MicroOp.ofLine = true)
    (h : lineRun ops s = some t) : QuietRun ops.length ops s [] t := by
  induction ops generalizing s with
  | nil => cases h; exact .nil _
  | cons op ops ih =>
    obtain ⟨hop, hrest⟩ := Bool.and_eq_true_iff.mp hops
    simp only [lineRun] at h
    split at h
    · next more u hm =>
      obtain ⟨rfl, hu⟩ := microStep_line hop hm
      have hquiet : Quiet u := by rw [hu]; exact hs
      rw [Env.next_of_quiet hquiet.2.1] at h
      rw [List.length_cons, Nat.add_comm]
      exact (QuietRun.micro hs hm).seq (ih hquiet hrest h)
    · cases h

/-- Steps of which the effect on the lines is known, within an undisturbed instruction. -/
theorem QuietRun.of_lines {ops : List MicroOp} {s : State} {q q' : Lines} {log₀ : List BusEvent} {bits : List Bool}
    {conds : List Condition} (hs : Quiet s) (hpins : s.pins = q.pins log₀) (hops : ops.all MicroOp.ofLine = true)
    (h : LineRun ops s.bridge s.env q q' bits conds) :
    ∃ log, QuietRun ops.length ops s [] { s with pins := q'.pins (log ++ log₀) } ∧
      Emits q.sda q.scl log q'.sda q'.scl bits conds := by
  obtain ⟨log, hlog, hrun⟩ := h
  have hline := hrun s log₀ rfl
  rw [← hpins, Env.iterate_of_quiet hs.2.1] at hline
  exact ⟨log, .of_lineRun hs hops hline, hlog⟩

/-- A command issued within an instruction: its steps follow (R118). -/
theorem QuietRun.command {n : Nat} {w : BitVec 11} {ops : List MicroOp} {s t : State} (hs : Quiet s)
    (hw : i2cCmdOps w = some ops) (h : QuietRun n ops s [] t) : QuietRun (1 + n) [.i2cCmd w] s [] t := by
  have hissue : microStep (.i2cCmd w) s = .go ops s := by simp only [microStep, hw, issue]
  exact (micro hs hissue).trans h

/-- An unheld clock with a quiet bus agent is never stretched. -/
theorem SclFree.noStretch {s : State} (hs : SclFree s) : s.env.NoStretch := by
  obtain ⟨⟨-, hbus, -⟩, hlow⟩ := hs
  exact ⟨hlow, by rw [hbus]; nofun⟩

/-- The start of I2C_IO: a START, or where a transaction is in progress a repeated one (R240, R241). -/
theorem QuietRun.io_start {s : State} {q : Lines} {log₀ : List BusEvent} (hs : SclFree s) (hpins : s.pins = q.pins log₀)
    (b : Bool) (hb : b = true ∨ q.scl = false) :
    ∃ n ≤ 20, ∃ log, QuietRun n [.i2cCmd (if b then startWord else rstartWord)] s []
        { s with pins := ({ q with sda := false, scl := false } : Lines).pins (log ++ log₀) } ∧
      Emits q.sda q.scl log false false (if b then [] else [true])
        (if b then (if q.sda && q.scl then [.start] else []) else [.start]) := by
  cases b with
  | true =>
    obtain ⟨log, hrun, hlog⟩ := QuietRun.of_lines hs.1 hpins rfl (.start _ _ q)
    exact ⟨_, by decide, log, .command hs.1 i2cCmdOps_start hrun, hlog⟩
  | false =>
    have hscl : q.scl = false := hb.resolve_left Bool.false_ne_true
    have hdir : s.pins.sclDir = .output := by
      rw [hpins, Lines.pins, hscl]
      rfl
    have hcheck : QuietRun 1 [.rstartCheck] s [] s := .micro hs.1 (if_pos hdir)
    obtain ⟨log, hrun, hlog⟩ := QuietRun.of_lines hs.1 hpins rfl (.rstart hs.noStretch hscl)
    exact ⟨_, by decide, log, .command hs.1 i2cCmdOps_rstart (hcheck.seq hrun), hlog⟩

/-- The address byte of I2C_IO, whose acknowledge is the slave's choice (R241, R283). -/
theorem QuietRun.io_write {s : State} {q : Lines} {log₀ : List BusEvent} (hs : SclFree s) (hpins : s.pins = q.pins log₀)
    (hscl : q.scl = false) (data : Byte) :
    ∃ n ≤ 90, ∃ log, QuietRun n [.i2cCmd (writeWord data)] s []
        { s with pins := ({ q with sda := true, ack := s.env.sdaLow } : Lines).pins (log ++ log₀) } ∧
      Emits q.sda q.scl log true q.scl (bitsMsbFirst data ++ [true]) [] := by
  obtain ⟨log, hrun, hlog⟩ := QuietRun.of_lines hs.1 hpins (writeOps_ofLine data) (.write hs.1.2.1 hs.2 hscl data)
  exact ⟨_, Nat.add_le_add_left (writeOps_length data) 1, log, .command hs.1 (i2cCmdOps_write data) hrun, hlog⟩

/-- A STOP where it is due: both lines are released then (R242, R243, R282). -/
theorem QuietRun.io_stop {s : State} {q : Lines} {log₀ : List BusEvent} (hs : SclFree s) (hpins : s.pins = q.pins log₀)
    (hscl : q.scl = false) (due : Bool) :
    ∃ n ≤ 20, ∃ log, QuietRun n (if due then [.i2cCmd stopWord] else []) s []
        { s with pins := (q.stopped due).pins (log ++ log₀) } ∧
      Emits q.sda q.scl log (q.stopped due).sda (q.stopped due).scl (if due then [false] else [])
        (if due then [.stop] else []) := by
  cases due with
  | false =>
    have hlines : q.stopped false = q := by simp only [Lines.stopped, Bool.or_false]
    rw [hlines]
    exact ⟨0, by decide, [], by rw [List.nil_append, ← hpins]; exact .nil s, .nil _ _⟩
  | true =>
    obtain ⟨log, hrun, hlog⟩ := QuietRun.of_lines hs.1 hpins rfl (.stop hs.noStretch hscl)
    have hlines : q.stopped true = { q with sda := true, scl := true } := by simp only [Lines.stopped, Bool.or_true]
    rw [hlines]
    exact ⟨_, by decide, log, .command hs.1 i2cCmdOps_stop hrun, hlog⟩

/-! ### What the acknowledge decides (R242 to R244) -/

/-- The bridge after an address phase: acknowledged, the counter is loaded and the frame saved; else the counter is cleared
and the saved frame stays (R242, R243). -/
def Bridge.addressed (br : Bridge) (acked b e rd : Bool) (a : BitVec 7) (n : Half) : Bridge :=
  { br with
    status := if acked then .addressAcked else .addressNacked
    remaining := if acked then n else 0
    beginFlag := if acked then b else br.beginFlag
    endFlag := if acked then e else br.endFlag
    rd := if acked then rd else br.rd
    addr := if acked then a else br.addr }

/-- The assignments to the bridge that an address phase ends with (R242, R243). -/
def ioSaveOps (acked b e rd : Bool) (a : BitVec 7) (n : Half) : List MicroOp :=
  if acked then [.setStatus .addressAcked, .setRemaining n, .setBegin b, .setEnd e, .setRd rd, .setIoAddr a]
  else [.setStatus .addressNacked, .setRemaining 0]

/-- Whether the STOP follows the address phase: no acknowledge, or a probe (R242, R243). -/
def ioStops (acked e : Bool) (n : Half) : Bool := !acked || (e && n == 0)

theorem ioAddressOps_eq (acked b e rd : Bool) (a : BitVec 7) (n : Half) :
    ioAddressOps acked b e rd a n = ioSaveOps acked b e rd a n ++ if ioStops acked e n then [.i2cCmd stopWord] else [] := by
  cases acked <;> rfl

theorem QuietRun.io_save {s : State} (hs : Quiet s) (acked b e rd : Bool) (a : BitVec 7) (n : Half) :
    ∃ k ≤ 6, QuietRun k (ioSaveOps acked b e rd a n) s [] { s with bridge := s.bridge.addressed acked b e rd a n } := by
  cases acked with
  | false =>
    have hstatus := QuietRun.micro (op := .setStatus .addressNacked) hs rfl
    exact ⟨_, by decide, hstatus.seq (.micro hs rfl)⟩
  | true =>
    have hstatus := QuietRun.micro (op := .setStatus .addressAcked) hs rfl
    have hload := hstatus.seq (.micro (op := .setRemaining n) hs rfl)
    have hflags := (hload.seq (.micro (op := .setBegin b) hs rfl)).seq (.micro (op := .setEnd e) hs rfl)
    exact ⟨_, le_rfl, (hflags.seq (.micro (op := .setRd rd) hs rfl)).seq (.micro hs rfl)⟩

/-- The end of the address phase: the branch on the acknowledge, with the STOP where it is due. -/
theorem QuietRun.io_address {s : State} {q : Lines} {log₀ : List BusEvent} (hs : SclFree s) (hpins : s.pins = q.pins log₀)
    (hscl : q.scl = false) (b e rd : Bool) (a : BitVec 7) (n : Half) :
    ∃ k ≤ 27, ∃ log, QuietRun k [.ioAddress b e rd a n] s []
        { s with
          bridge := s.bridge.addressed q.ack b e rd a n
          pins := (q.stopped (ioStops q.ack e n)).pins (log ++ log₀) } ∧
      Emits q.sda q.scl log (q.stopped (ioStops q.ack e n)).sda (q.stopped (ioStops q.ack e n)).scl
        (if ioStops q.ack e n then [false] else []) (if ioStops q.ack e n then [.stop] else []) := by
  have hack : s.pins.ack = q.ack := by rw [hpins]; rfl
  have hbranch : microStep (.ioAddress b e rd a n) s =
      .go (ioSaveOps q.ack b e rd a n ++ if ioStops q.ack e n then [.i2cCmd stopWord] else []) s := by
    rw [← ioAddressOps_eq, ← hack]
    rfl
  obtain ⟨k, hk, hsave⟩ := QuietRun.io_save hs.1 q.ack b e rd a n
  obtain ⟨m, hm, log, hstop, hlog⟩ := QuietRun.io_stop
    (s := { s with bridge := s.bridge.addressed q.ack b e rd a n }) hs hpins hscl (ioStops q.ack e n)
  exact ⟨_, by omega, log, (QuietRun.micro hs.1 hbranch).trans (hsave.seq hstop), hlog⟩

/-- The reply of I2C_IO: a callback transfer where a read has data left, else one of no bytes (R231, R244). -/
theorem QuietRun.io_reply {s : State} (hs : Quiet s) {rd reading : Bool} (wl : Half)
    (hreading : reading = (rd && s.bridge.remaining != 0)) :
    ∃ n ≤ 5, QuietRun n [.ioReply rd wl] s []
      { s with
        usb.txCursor := if reading then s.usb.txCursor else BitVec.ofNat _ Config.replyBase
        usb.txState := if reading then .callback else .ram
        usb.txTotal := if reading then clampedLength 255 wl else 0 } := by
  have hlead : QuietRun 1 [.ioReply rd wl] s (ioReplyOps s rd wl) s := .micro hs rfl
  rw [ioReplyOps, ← hreading] at hlead
  cases reading with
  | true => exact ⟨_, by decide, hlead.trans (.start_transfer hs Config.replySentinel .ram wl)⟩
  | false => exact ⟨_, by decide, hlead.trans (.literal_zero hs wl)⟩

/-! ### I2C_IO as a whole -/

/-- The master's state after an address phase, and after the STOP where it is due. -/
theorem Pins.addressed_stopped {p : Pins} (hsda : p.sdaOut = false) (hscl : p.sclOut = false) (ack due : Bool)
    (log : List BusEvent) :
    (({ p.lines with sda := true, scl := false, ack := ack } : Lines).stopped due).pins log =
      { p with sdaDir := .input, sclDir := if due then .input else .output, ack := ack, log := log } := by
  simp [Lines.stopped, Lines.pins, Pins.lines, hsda, hscl]

/-- The address phase: the start condition, the address byte, and the branch on its acknowledge (R240 to R243). -/
theorem QuietRun.io_phase {s : State} (hs : SclFree s) (hhigh : NeverHigh s) {b : Bool}
    (hb : b = true ∨ s.pins.sclDir = .output) (e rd : Bool) (a : BitVec 7) (n : Half) :
    ∃ k ≤ 137, ∃ log, QuietRun k
        [.i2cCmd (if b then startWord else rstartWord), .i2cCmd (writeWord (addressByte a rd)), .ioAddress b e rd a n] s []
        { s with
          bridge := s.bridge.addressed s.env.sdaLow b e rd a n
          pins := { s.pins with
            sdaDir := .input, sclDir := if ioStops s.env.sdaLow e n then .input else .output, ack := s.env.sdaLow
            log := log ++ s.pins.log } } ∧
      busConditions (released s.pins .sda) (released s.pins .scl) log.reverse =
        (if b then (if released s.pins .sda && released s.pins .scl then [.start] else []) else [.start]) ++
          (if ioStops s.env.sdaLow e n then [.stop] else []) ∧
      clockedBits (released s.pins .scl) log.reverse =
        (if b then [] else [true]) ++ bitsMsbFirst (addressByte a rd) ++ [true] ++
          (if ioStops s.env.sdaLow e n then [false] else []) := by
  obtain ⟨k₁, hk₁, log₁, hstart, hlog₁⟩ := QuietRun.io_start hs (Pins.eq_lines hhigh.1 hhigh.2) b
    (hb.imp_right (Pins.lines_scl_of_output hhigh.2))
  obtain ⟨k₂, hk₂, log₂, hwrite, hlog₂⟩ := QuietRun.io_write
    (s := { s with pins := ({ s.pins.lines with sda := false, scl := false } : Lines).pins (log₁ ++ s.pins.log) })
    hs rfl rfl (addressByte a rd)
  obtain ⟨k₃, hk₃, log₃, haddress, hlog₃⟩ := QuietRun.io_address
    (s := { s with
      pins := ({ s.pins.lines with sda := true, scl := false, ack := s.env.sdaLow } : Lines).pins
        (log₂ ++ (log₁ ++ s.pins.log)) })
    hs rfl rfl b e rd a n
  rw [Pins.addressed_stopped hhigh.1 hhigh.2] at haddress
  have hrun := hstart.seq (hwrite.seq haddress)
  have hlog := (hlog₁.trans hlog₂).trans hlog₃
  rw [List.append_nil] at hlog
  refine ⟨k₁ + (k₂ + k₃), by omega, log₃ ++ (log₂ ++ log₁), ?_, hlog.busConditions_eq, ?_⟩
  · rw [List.append_assoc, List.append_assoc]
    exact hrun
  · exact hlog.clockedBits_eq.trans (by simp only [List.append_assoc])

theorem addressByte_eq (r : Setup) :
    addressByte (ioTarget r) (ioRead r) = r.wIndex.extractLsb' 0 7 ++ r.wValue.extractLsb' 0 1 := by
  rw [addressByte, ioRead, ofBool_getLsbD, ioTarget]

/-- Settles O31: the write-failure flag is cleared, then come the address phase and the reply. -/
theorem i2cIoCompletes : Obligations.I2cIoCompletes := by
  intro s b e r i hs hhigh hi hb acked stopped reading sda scl
  have hexec : exec i s = runInstr (i2cIoOps b e r) s := by rcases hi with rfl | rfl <;> rfl
  have hclear : QuietRun 1 [.clearWriteFail] s [] { s with bridge.writeFail := false } := .micro hs.1 rfl
  obtain ⟨k, hk, log, hphase, hconds, hbits⟩ := QuietRun.io_phase (s := { s with bridge.writeFail := false }) hs hhigh hb
    e (ioRead r) (ioTarget r) r.wLength
  have hreading : reading = (ioRead r && (if acked then r.wLength else 0) != 0) := by
    simp only [reading, ioRead]
    cases acked <;> simp
  obtain ⟨n, hn, hreply⟩ := QuietRun.io_reply
    (s := { s with
      bridge := ({ s.bridge with writeFail := false } : Bridge).addressed acked b e (ioRead r) (ioTarget r) r.wLength
      pins := { s.pins with
        sdaDir := .input, sclDir := if stopped then .input else .output, ack := acked, log := log ++ s.pins.log } })
    hs.1 r.wLength hreading
  have hfuel : 1 + (k + n) ≤ opFuel := by unfold opFuel; omega
  rw [addressByte_eq] at hbits
  exact ⟨log, hexec.trans ((hclear.seq (hphase.seq hreply)).runInstr hfuel), hconds, hbits⟩

/-! ### The undefined repeated start (R281) -/

theorem runOps_eq_fault {n : Nat} {op : MicroOp} {rest : List MicroOp} {s : State} {f : Fault}
    (hi : interruptDue s = false) (h : microStep op s = .fault f) : runOps (n + 1) (op :: rest) s = .fault f := by
  simp [runOps, hi, h]

/-- A step of an operation while the host stands still: the bus agent alone moves after it. -/
theorem runOps_go_next {n : Nat} {op : MicroOp} {rest more : List MicroOp} {s t : State} (hhost : s.env.host = [])
    (hi : interruptDue s = false) (h : microStep op s = .go more t) :
    runOps (n + 1) (op :: rest) s = runOps n (more ++ rest) { t with env := t.env.next } := by
  obtain ⟨-, -, henv, -⟩ := microStep_frame h
  rw [runOps_go hi h, tick_eq_next (by rw [henv]; exact hhost)]

/-- Settles O32: the repeated start's check is the third atomic step, and nothing has moved SCL or latched an edge before
it. -/
theorem i2cIoUndefinedStart : Obligations.I2cIoUndefinedStart := by
  intro s e r i hdue hhost hdir hi
  have hexec : exec i s = runInstr (i2cIoOps false e r) s := by rcases hi with rfl | rfl <;> rfl
  have hclear : microStep .clearWriteFail s = .go [] { s with bridge.writeFail := false } := rfl
  have hissue : ∀ u, microStep (.i2cCmd rstartWord) u = .go rstartOps u := fun u => by
    simp only [microStep, i2cCmdOps_rstart, issue]
  have hcheck : ∀ u : State, u.pins.sclDir = .input → microStep .rstartCheck u = .fault .i2cRstartUndefined :=
    fun u hu => if_neg (by rw [hu]; decide)
  rw [hexec]
  refine (runOps_go_next (n := 511) hhost hdue hclear).trans ?_
  refine (runOps_go_next (n := 510) (s := { s with bridge.writeFail := false, env := s.env.next })
    ((Env.next_host _).trans hhost) hdue (hissue _)).trans ?_
  exact runOps_eq_fault (n := 509) hdue (hcheck _ hdir)

end Sys2Proof.Machine

/-! ECHO from end to end: S1 reads the payload and dispatches it, the reply is stored, and S2 makes it the packet (R112, R152,
R161, R165, R233; O59). -/

namespace Sys2Proof.Machine

/-! ### A request from S1 to S2 -/

/-- What S1 has done when it dispatches a request: the old transmission is aborted, and the PID is the one that the first
packet's toggle makes a DATA1 of (R152, R161). -/
def State.aborted (s : State) : State :=
  { s with
    usb.txLen := 0, usb.txState := .idle, usb.txBuf := s.usb.txBuf.set 0 0xC3
    irq.enable := true }

/-- S1 with a SETUP packet whose request runs in one step: the buffer is released after it, and S2 is next (R152, R154). -/
theorem steps_s1_request {s t : State} {i : Instr} (h : AtPhase .s1 s) (hlen : s.usb.rxLen = 11)
    (htoken : s.usb.rxToken = 0x2D) (hd : decode .request (setupPayload s s.usb.rxSel) = .ok i) (ht : Calm t)
    (hb : t.env.bus = [])
    (hexec : exec i { s.aborted with poll.cont := [.setRxLen 0, .goto .s2] } =
      .next { t with poll.cont := [.setRxLen 0, .goto .s2] }) :
    steps 20 s = .next { t with usb.rxLen := 0, poll := { phase := .s2, cont := [] } } := by
  have hread := s1ReachesDispatch s h hlen htoken
  obtain ⟨hhost, hlatch, hactive⟩ := Calm.of_atPhase h
  have hcalm : Calm { s.aborted with
    poll.cont := [.dispatch (setupPayload s s.usb.rxSel), .setRxLen 0, .goto .s2] } := ⟨hhost, hlatch, hactive⟩
  have hdispatch := step_dispatch hcalm.active hcalm.not_due rfl
  rw [hd] at hdispatch
  have hend : PollRun 2 [.setRxLen 0, .goto .s2] t [] { t with usb.rxLen := 0, poll.phase := .s2 } :=
    .of_eval_quiet ht hb rfl rfl
  exact (steps_add (m := 3) hread).trans ((steps_succ (n := 2) (hdispatch.trans hexec)).trans hend.steps_eq)

/-! ### The reply read back -/

/-- A stored reply is what the cursor's bytes are, from the reply buffer's first on (R39, R162). -/
theorem StoresReply.read_cursor {m m' : Memory} {bytes : List Byte} (h : StoresReply m m' bytes)
    (hfit : bytes.length ≤ Config.replyBufLen) {j : Nat} (hj : j < bytes.length) :
    m'.read (((BitVec.ofNat Config.cursorBits Config.replyBase).toNat + j) % 2 ^ Config.cursorBits) = bytes.getD j 0 := by
  obtain ⟨-, hbytes, -⟩ := h
  have hspace := Config.replyBuf_fits
  rw [BitVec.toNat_ofNat, Nat.mod_add_mod, Nat.mod_eq_of_lt (by omega)]
  exact hbytes j hj

/-! ### ECHO -/

/-- The request of ECHO with wLength 2 (R109, R233). -/
def echoSetup (v0 v1 i0 i1 : Byte) : Setup := ⟨true, 1, le16 v0 v1, le16 i0 i1, 2⟩

theorem decode_echo (v0 v1 i0 i1 : Byte) :
    decode .request [0xC1, 0x00, v0, v1, i0, i1, 0x02, 0x00] = .ok (.vendorEcho (echoSetup v0 v1 i0 i1)) := rfl

/-- ECHO stores the two bytes it was sent, and starts a transfer of them. -/
theorem exec_echo {s : State} (hs : Quiet s) (hm : s.ram.wf = true) (v0 v1 i0 i1 : Byte) :
    ∃ m, StoresReply s.ram m [v0, v1] ∧
      exec (.vendorEcho (echoSetup v0 v1 i0 i1)) s = .next
        { s with
          ram := m, usb.txCursor := BitVec.ofNat _ Config.replyBase, usb.txState := .ram, usb.txTotal := 2 } := by
  have hfit : 2 ≤ Config.replyBufLen := (show 2 ≤ 4 by decide).trans Config.four_le_replyBufLen
  have hops : exec (.vendorEcho (echoSetup v0 v1 i0 i1)) s = runInstr (serveDescriptorOps (.inRam [v0, v1]) 2) s := by
    have hlow : lo8 (echoSetup v0 v1 i0 i1).wValue = v0 := lo8_le16 v0 v1
    have hhigh : hi8 (echoSetup v0 v1 i0 i1).wValue = v1 := hi8_le16 v0 v1
    simp only [exec, execVendorEcho, echoOps, hlow, hhigh]
    rfl
  exact exists_storesReply_of_serve (bytes := [v0, v1]) hs hm hfit (Nat.le_of_ble_eq_true rfl) hops

/-- The state in which ECHO's reply, stored in the memory m, is about to be sent (R203, R233). -/
def State.echoing (s : State) (m : Memory) : State :=
  { s.aborted with
    ram := m, usb.txCursor := BitVec.ofNat _ Config.replyBase, usb.txState := .ram, usb.txTotal := 2 }

/-- S1 with an ECHO request for both bytes: they are stored as the reply of a transfer, which S2 is about to refill. -/
theorem steps_s1_echo {s : State} {v0 v1 i0 i1 : Byte} (h : AtPhase .s1 s) (hm : s.ram.wf = true)
    (hlen : s.usb.rxLen = 11) (htoken : s.usb.rxToken = 0x2D)
    (hpayload : setupPayload s s.usb.rxSel = [0xC1, 0x00, v0, v1, i0, i1, 0x02, 0x00]) :
    ∃ m, StoresReply s.ram m [v0, v1] ∧
      steps 20 s = .next { s.echoing m with usb.rxLen := 0, poll := { phase := .s2, cont := [] } } := by
  obtain ⟨hhost, hlatch, hactive⟩ := Calm.of_atPhase h
  have hcalm : Calm { s.aborted with poll.cont := [.setRxLen 0, .goto .s2] } := ⟨hhost, hlatch, hactive⟩
  obtain ⟨m, hstored, hexec⟩ := exec_echo (s := { s.aborted with poll.cont := [.setRxLen 0, .goto .s2] })
    ⟨hhost, h.2.1, hcalm.not_due⟩ hm v0 v1 i0 i1
  have hd : decode .request (setupPayload s s.usb.rxSel) = .ok (.vendorEcho (echoSetup v0 v1 i0 i1)) := by
    rw [hpayload]
    exact decode_echo v0 v1 i0 i1
  exact ⟨m, hstored, steps_s1_request (t := s.echoing m) h hlen htoken hd ⟨hhost, hlatch, hactive⟩ h.2.1 hexec⟩

/-- Settles O59: S1 dispatches the request, which stores the two bytes; S2 copies them behind DATA1's PID. -/
theorem echoRoundTrip : Obligations.EchoRoundTrip := by
  intro s v0 v1 i0 i1 h hm hlen htoken hpayload
  obtain ⟨hhost, hlatch, hactive⟩ := Calm.of_atPhase h
  obtain ⟨m, hstored, hs1⟩ := steps_s1_echo h hm hlen htoken hpayload
  have hfit : [v0, v1].length ≤ Config.replyBufLen := (show 2 ≤ 4 by decide).trans Config.four_le_replyBufLen
  obtain ⟨buf, hs2, hbuf⟩ := refillFromMemory
    { s.echoing m with usb.rxLen := 0, poll := { phase := .s2, cont := [] } }
    ⟨hhost, h.2.1, hlatch, hactive, rfl, rfl⟩ rfl (.inl rfl)
  have hread : ∀ j < 2, m.read (((BitVec.ofNat Config.cursorBits Config.replyBase).toNat + j) % 2 ^ Config.cursorBits) =
      [v0, v1].getD j 0 := fun j hj => hstored.read_cursor hfit hj
  have hpacket : ∀ payload : List Byte, payload = [v0, v1] →
      dataBytes ((s.usb.txBuf.set 0 0xC3)[0] ^^^ 0x88) payload (crc16 payload) =
        dataBytes 0x4B [v0, v1] (crc16 [v0, v1]) := by
    rintro _ rfl
    rw [Vector.getElem_set_self]
    rfl
  refine ⟨_, _, (steps_add hs1).trans hs2, rfl, rfl, rfl, hbuf.trans (hpacket _ ?_)⟩
  exact congrArg₂ (fun a b => [a, b]) (hread 0 (by decide)) (hread 1 (by decide))

end Sys2Proof.Machine

/-! Interrupts are enabled wherever the I2C master acts (O55): a critical section of POLL ends before a step that could
touch the master, and the ISR enables interrupts again when it returns. -/

namespace Sys2Proof.Machine

/-! ### Critical sections -/

/-- A step that does not begin a critical section (R326). -/
def MicroOp.keepsMask (op : MicroOp) : Bool := op != .intMask

/-- A step that neither begins a critical section nor acts on the master, nor may lead to such a step. -/
def MicroOp.sparesMaster (op : MicroOp) : Bool := !op.touchesMaster && op.keepsMask

theorem masterFree_cons (op : MicroOp) (rest : List MicroOp) :
    masterFree (op :: rest) = (op == .intUnmask || (!op.touchesMaster && masterFree rest)) := by
  cases op <;> rfl

theorem masterFree_append {a b : List MicroOp} (ha : a.all MicroOp.sparesMaster = true) (hb : masterFree b = true) :
    masterFree (a ++ b) = true := by
  induction a with
  | nil => exact hb
  | cons op a ih =>
    obtain ⟨⟨hop, -⟩, hrest⟩ : (op.touchesMaster = false ∧ op.keepsMask = true) ∧ a.all MicroOp.sparesMaster = true := by
      simpa [MicroOp.sparesMaster] using ha
    rw [List.cons_append, masterFree_cons, hop, ih hrest]
    simp

/-- Steps that begin no critical section leave the ones behind them free of the master. -/
theorem windowsFree_append {a b : List MicroOp} (ha : a.all MicroOp.keepsMask = true) (hb : windowsFree b = true) :
    windowsFree (a ++ b) = true := by
  induction a with
  | nil => exact hb
  | cons op a ih =>
    obtain ⟨hop, hrest⟩ := Bool.and_eq_true_iff.mp ha
    rw [MicroOp.keepsMask] at hop
    rw [List.cons_append, windowsFree, hop, ih hrest]
    rfl

theorem keepsMask_of_spares {ops : List MicroOp} (h : ops.all MicroOp.sparesMaster = true) :
    ops.all MicroOp.keepsMask = true :=
  List.all_eq_true.mpr fun op hmem => by
    obtain ⟨-, hkeeps⟩ := Bool.and_eq_true_iff.mp (List.all_eq_true.mp h op hmem)
    exact hkeeps

/-- The steps `more` that a step leads to fit into the critical sections: whatever stands behind them, they begin none that
reaches the master, and where the step itself is free of the master they do not reach it before interrupts are enabled. -/
structure FitsWindows (op : MicroOp) (more : List MicroOp) : Prop where
  ahead : ∀ rest, windowsFree rest = true → windowsFree (more ++ rest) = true
  now   : op.touchesMaster = false → ∀ rest, masterFree rest = true → masterFree (more ++ rest) = true

theorem FitsWindows.of_spares {op : MicroOp} {more : List MicroOp} (h : more.all MicroOp.sparesMaster = true) :
    FitsWindows op more :=
  ⟨fun _ => windowsFree_append (keepsMask_of_spares h), fun _ _ => masterFree_append h⟩

/-- A step that may act on the master may lead to any steps that begin no critical section. -/
theorem FitsWindows.of_touches {op : MicroOp} {more : List MicroOp} (hop : op.touchesMaster = true)
    (h : more.all MicroOp.keepsMask = true) : FitsWindows op more :=
  ⟨fun _ => windowsFree_append h, fun hno => by rw [hop] at hno; cases hno⟩

/-! ### The steps that a step leads to -/

theorem ofRequest_all_keepsMask {ops : List MicroOp} (h : ops.all MicroOp.ofRequest = true) :
    ops.all MicroOp.keepsMask = true :=
  List.all_eq_true.mpr fun op hmem => by
    have hop := List.all_eq_true.mp h op hmem
    cases op
    case intMask => cases hop
    all_goals rfl

theorem sparesMaster_of_ofHandler {op : MicroOp} (h : op.ofHandler = true) : op.sparesMaster = true := by
  cases op
  case putReply | setCursor | cursorToReply | startTransfer | setTxState | setTxTotal => rfl
  case setNewAddress | setAddrPending | getDescriptor => rfl
  all_goals cases h

theorem getDescriptorOps_sparesMaster (s : State) (dtype dindex : Byte) (wi wl : Half) (digits : List Byte) :
    (getDescriptorOps s dtype dindex wi wl digits).all MicroOp.sparesMaster = true :=
  List.all_eq_true.mpr fun op hmem =>
    sparesMaster_of_ofHandler (List.all_eq_true.mp (getDescriptorOps_ofHandler s dtype dindex wi wl digits) op hmem)

theorem calCmdOps_sparesMaster {w : BitVec 2} {ops : List MicroOp} (h : calCmdOps w = some ops) :
    ops.all MicroOp.sparesMaster = true := by
  unfold calCmdOps at h
  split_ifs at h <;> cases h <;> rfl

theorem calNeighbourOps_sparesMaster (trial : Byte) : (calNeighbourOps trial).all MicroOp.sparesMaster = true := by
  rw [calNeighbourOps, List.all_append, List.all_flatMap]
  exact Bool.and_eq_true_iff.mpr ⟨List.all_eq_true.mpr fun _ _ => rfl, rfl⟩

theorem s1TakeOps_keepsMask (len : Byte) (k : Bool) (token : Byte) :
    (s1TakeOps len k token).all MicroOp.keepsMask = true :=
  all_ite_of rfl (all_append_of (all_ite_of (all_append_of rfl (all_ite_of rfl rfl))
    (all_ite_of rfl (all_ite_of rfl rfl))) rfl)

theorem all_map_of {α : Type} {p : MicroOp → Bool} {f : α → MicroOp} (hf : ∀ x, p (f x) = true) (l : List α) :
    (l.map f).all p = true := by simp [hf]

theorem refillOps_keepsMask (s : State) : (refillOps s).all MicroOp.keepsMask = true := by
  unfold refillOps
  split
  · rfl
  · exact all_append_of (all_append_of (all_map_of (fun _ => rfl) _) rfl) rfl
  · exact all_append_of (all_append_of (all_map_of (fun _ => rfl) _) rfl) rfl
  · rfl

theorem s2TakeOps_keepsMask (s : State) (len : Byte) : (s2TakeOps s len).all MicroOp.keepsMask = true :=
  all_append_of (all_ite_of (refillOps_keepsMask s) rfl) rfl

theorem readCallbackOps_keepsMask (s : State) (cap : Nat) : (readCallbackOps s cap).all MicroOp.keepsMask = true :=
  all_ite_of (all_append_of (all_append_of (all_map_of (fun _ => rfl) _) rfl) rfl)
    (all_append_of (all_map_of (fun _ => rfl) _) rfl)

/-- S3's bus reset enables interrupts again, after the calibration it runs (R170, R326). -/
theorem sampleDmOps_fitsWindows (s : State) (left : Nat) : FitsWindows (.sampleDm left) (sampleDmOps s left) := by
  unfold sampleDmOps
  split_ifs
  · exact .of_spares rfl
  · exact ⟨fun _ h => h, fun _ _ _ => rfl⟩
  · exact .of_spares rfl

/-- Every step leads to steps that fit into the critical sections. -/
theorem microStep_fitsWindows {op : MicroOp} {s t : State} {more : List MicroOp} (h : microStep op s = .go more t) :
    FitsWindows op more := by
  cases op
  case dispatch => cases h
  case s1Token | s2Len => cases h; exact ⟨fun _ h => h, fun _ _ _ => rfl⟩
  case sampleDm => cases h; exact sampleDmOps_fitsWindows _ _
  case s1Take => cases h; exact .of_touches rfl (s1TakeOps_keepsMask _ _ _)
  case s2Take => cases h; exact .of_touches rfl (s2TakeOps_keepsMask _ _)
  case readCallback => cases h; exact .of_touches rfl (readCallbackOps_keepsMask _ _)
  case ioAddress => cases h; exact .of_touches rfl (ofRequest_all_keepsMask (ioAddressOps_request _ _ _ _ _ _).kind)
  case i2cCmd => exact .of_touches rfl (ofRequest_all_keepsMask (i2cCmdOps_request (issue_go h).1).kind)
  case readSetup | writeCallback | writeLoop | stopIfDone => cases h; exact .of_touches rfl (all_ite_of rfl rfl)
  case readByte => cases h; exact .of_touches rfl rfl
  case getDescriptor => cases h; exact .of_spares (getDescriptorOps_sparesMaster _ _ _ _ _ _)
  case calCmd => exact .of_spares (calCmdOps_sparesMaster (issue_go h).1)
  case calNeighbours => cases h; exact .of_spares (calNeighbourOps_sparesMaster _)
  case appendCrc | addressCommit | calibrateOnce | startTransfer | ioReply | calLoad | calCompare =>
    cases h; exact .of_spares (all_ite_of rfl rfl)
  case rstartCheck | waitScl | measureOpen | measureEnd =>
    simp only [microStep] at h; split at h <;> cases h; exact .of_spares rfl
  all_goals cases h; exact .of_spares rfl

/-- POLL writes `int_enable` with two steps only (R326). -/
theorem microStep_enable {op : MicroOp} {s t : State} {more : List MicroOp} (hmask : op ≠ .intMask)
    (hunmask : op ≠ .intUnmask) (h : microStep op s = .go more t) : t.irq.enable = s.irq.enable := by
  cases op
  case intMask => exact absurd rfl hmask
  case intUnmask => exact absurd rfl hunmask
  case dispatch => cases h
  case i2cCmd | calCmd => obtain ⟨-, rfl⟩ := issue_go h; rfl
  case setDirection l m => cases h; rw [setDirection_irq]
  case setLine l v => cases h; rw [setLine_irq]
  case nvBest => cases h; rw [nvWrite_irq]
  case endIfShort | noteWriteAck => cases h; split <;> rfl
  case calKeep => cases h; rw [calKeep_irq]
  case rstartCheck | waitScl | measureOpen | measureEnd => simp only [microStep] at h; split at h <;> cases h; rfl
  all_goals cases h; rfl

/-! ### The masking along POLL -/

/-- An atomic step keeps the masking: `intMask` begins a section that is known to be free of the master, `intUnmask` ends
one, and every other step leaves `int_enable` and leads to steps that fit. -/
theorem MasterUnmasked.micro {op : MicroOp} {rest more : List MicroOp} {s t : State}
    (h : MasterUnmasked { s with poll.cont := op :: rest }) (hm : microStep op s = .go more t) :
    MasterUnmasked { t with poll.cont := more ++ rest } := by
  have hfits := microStep_fitsWindows hm
  obtain ⟨hsection, hrest⟩ : (op = .intMask → masterFree rest = true) ∧ windowsFree rest = true := by
    simpa [windowsFree, or_iff_not_imp_left] using h.ahead
  refine ⟨fun ha he => ?_, hfits.ahead rest hrest⟩
  by_cases hmask : op = .intMask
  · subst hmask
    cases hm
    exact hsection rfl
  by_cases hunmask : op = .intUnmask
  · subst hunmask
    cases hm
    cases he
  · obtain ⟨-, hirq, -⟩ := microStep_frame hm
    have hactive : s.irq.active = false := by
      rw [hirq] at ha
      exact ha
    have hnow : masterFree (op :: rest) = true := h.now hactive ((microStep_enable hmask hunmask hm).symm.trans he)
    rw [masterFree_cons, beq_false_of_ne hunmask] at hnow
    obtain ⟨hop, hfree⟩ : op.touchesMaster = false ∧ masterFree rest = true := by simpa using hnow
    exact hfits.now hop rest hfree

/-- Where the next step may act on the master, interrupts are enabled (R289). -/
theorem MasterUnmasked.enabled_of_touches {s : State} {op : MicroOp} {rest : List MicroOp} (h : MasterUnmasked s)
    (hcont : s.poll.cont = op :: rest) (hop : op.touchesMaster = true) (ha : s.irq.active = false) :
    s.irq.enable = true := by
  by_contra hoff
  have hne : op ≠ .intUnmask := by rintro rfl; cases hop
  have hnow := h.now ha (Bool.not_eq_true _ ▸ hoff)
  rw [hcont, masterFree_cons, hop, beq_false_of_ne hne] at hnow
  cases hnow

/-- Behind a step that may act on the master any steps may come that begin no critical section. -/
theorem MasterUnmasked.behind_touches {s : State} {op : MicroOp} {rest ops : List MicroOp}
    (h : MasterUnmasked { s with poll.cont := op :: rest }) (hop : op.touchesMaster = true)
    (hops : ops.all MicroOp.keepsMask = true) : MasterUnmasked { s with poll.cont := ops ++ rest } where
  now ha he := by
    have henable : s.irq.enable = true := h.enabled_of_touches rfl hop ha
    cases henable.symm.trans he
  ahead := by
    obtain ⟨-, hrest⟩ := Bool.and_eq_true_iff.mp h.ahead
    exact windowsFree_append hops hrest

/-- The masking depends on POLL's position and on whether interrupts are enabled outside the ISR. -/
theorem MasterUnmasked.of_cont {s t : State} (h : MasterUnmasked s) (hcont : t.poll.cont = s.poll.cont)
    (hnow : t.irq.active = false → t.irq.enable = false → s.irq.active = false ∧ s.irq.enable = false) :
    MasterUnmasked t where
  now ha he := by
    obtain ⟨ha', he'⟩ := hnow ha he
    rw [hcont]
    exact h.now ha' he'
  ahead := hcont ▸ h.ahead

theorem MasterUnmasked.tick {s : State} (h : MasterUnmasked s) : MasterUnmasked (tick s) :=
  h.of_cont (by rw [tick_poll]) (by rw [tick_active, tick_enable]; exact And.intro)

/-- The masking is an invariant of POLL. -/
theorem MasterUnmasked.invariant : PollInvariant MasterUnmasked where
  micro := MasterUnmasked.micro
  dispatch := by
    intro payload i ops rest s h hd hops
    obtain ⟨ops', hops', hreq⟩ := instrOps_request (decodeRequest_port hd)
    cases hops.symm.trans hops'
    exact h.behind_touches rfl (ofRequest_all_keepsMask hreq.kind)
  drop := fun h => h.behind_touches (ops := []) rfl rfl
  phase := by
    intro s _ _
    cases hp : s.poll.phase <;> exact ⟨fun _ _ => rfl, rfl⟩
  env := MasterUnmasked.tick

/-! ### The masking along every step -/

theorem receivePacket_active (s : State) : (receivePacket s).2.irq.active = s.irq.active := by
  unfold receivePacket
  split <;> rfl

theorem sendPacket_active (p : List Byte) (s : State) : (sendPacket p s).irq.active = s.irq.active := by
  rw [sendPacket_eq]

theorem isrData_active (token : Byte) (d : List Byte) (s : State) : (isrData token d s).irq.active = s.irq.active := by
  unfold isrData
  dsimp only
  split_ifs <;> simp [sendPacket_active]

/-- The ISR's body does not end the activation (R323). -/
theorem isrSetupOut_active (token : Byte) (s : State) : (isrSetupOut token s).irq.active = s.irq.active := by
  have hrx := receivePacket_active { s with irq.token := token }
  unfold isrSetupOut
  dsimp only
  split
  · next s2 heq => rw [heq] at hrx; exact hrx
  · next d s2 heq => rw [heq] at hrx; exact (isrData_active token d s2).trans hrx

theorem isrIn_active (s : State) : (isrIn s).irq.active = s.irq.active := by
  unfold isrIn
  split
  · exact sendPacket_active [0x5A] s
  · have hrx := (receivePacket_active _).trans (sendPacket_active (bufPacket s.usb.txBuf s.usb.txLen.toNat) s)
    split
    next hand s1 heq =>
    rw [heq] at hrx
    refine Eq.trans ?_ hrx
    split <;> rfl

/-- While the ISR runs nothing is asked of `int_enable`. -/
theorem MasterUnmasked.of_active {s v : State} (h : MasterUnmasked s) (hpoll : v.poll = s.poll)
    (ha : v.irq.active = true) : MasterUnmasked (Machine.tick v) :=
  (h.of_cont (t := v) (by rw [hpoll]) fun hno => by rw [ha] at hno; cases hno).tick

/-- The ISR's body does not end the activation, and its return enables interrupts (R322, R323). -/
theorem MasterUnmasked.step_isr {s t : State} (h : MasterUnmasked s) (ha : s.irq.active = true)
    (hs : step s = .next t) : MasterUnmasked t := by
  rcases step_isr_cases ha hs with rfl | rfl | ⟨p, rest, -, ⟨token, -, rfl⟩ | rfl⟩
  · exact (h.of_cont (t := interruptReturn s) rfl (fun _ => nofun)).tick
  · exact h.of_active rfl ha
  · exact h.of_active (BodyEffect.isrSetupOut token { s with irq.rx := rest }).poll
      ((isrSetupOut_active token { s with irq.rx := rest }).trans ha)
  · exact h.of_active (BodyEffect.isrIn { s with irq.rx := rest }).poll
      ((isrIn_active { s with irq.rx := rest }).trans ha)

theorem MasterUnmasked.step {s t : State} (h : MasterUnmasked s) (hs : step s = .next t) : MasterUnmasked t := by
  cases ha : s.irq.active with
  | true => exact h.step_isr ha hs
  | false =>
    cases hi : interruptDue s with
    | true => rw [step_interrupt hi hs]; exact h.of_active (v := interruptEntry s) rfl rfl
    | false => exact MasterUnmasked.invariant.step ha hi h hs

/-- Settles O55: POLL keeps the masking by its atomic steps, the ISR by enabling interrupts on its return; and where the
next step may act on the master, the masking says that interrupts are enabled. -/
theorem stepKeepsMasterUnmasked : Obligations.StepKeepsMasterUnmasked := by
  intro s t h hs
  refine ⟨h.step hs, ?_⟩
  rintro ha ⟨op, rest, hcont, hop⟩
  exact h.enabled_of_touches hcont hop ha

end Sys2Proof.Machine

/-! The I2C sequencer's commands, undisturbed in one step of the machine (R280 to R286): START, RSTART and STOP from any
levels of the master's outputs (O35 to O37), the reserved commands (O40) and the clock-stretch wait (O41). -/

namespace Sys2Proof.Machine

/-! ### A change of what the master drives -/

/-- The bus condition that a change of what the master drives makes (R116). -/
def driveConditions (p p' : Pins) : List Condition :=
  busConditions (released p .sda) (released p .scl) [.drive (released p' .sda) (released p' .scl)]

/-- While SDA stays there is no bus condition. -/
theorem driveConditions_of_sda {p p' : Pins} (h : released p' .sda = released p .sda) : driveConditions p p' = [] := by
  simp only [driveConditions, busConditions, h]
  cases released p .sda <;> simp

/-- While SCL is low before a change there is no bus condition. -/
theorem driveConditions_of_scl {p p' : Pins} (h : released p .scl = false) : driveConditions p p' = [] := by
  simp [driveConditions, busConditions, h]

/-- A fall of SDA alone is a START where SCL is high. -/
theorem driveConditions_of_fall {p p' : Pins} (hsda : released p' .sda = false) (hscl : released p' .scl = released p .scl) :
    driveConditions p p' = if released p .sda && released p .scl then [.start] else [] := by
  simp only [driveConditions, busConditions, hsda, hscl]
  cases released p .sda <;> simp

/-- Two changes after which SDA is low, the first of which leaves SDA or lowers it: it falls at most once. -/
theorem driveConditions_of_fall_trans {p p₁ p' : Pins}
    (hmid : released p₁ .sda = released p .sda ∨ released p₁ .sda = false) (hsda : released p' .sda = false)
    (hscl₁ : released p₁ .scl = released p .scl) (hscl : released p' .scl = released p₁ .scl) :
    driveConditions p p₁ ++ driveConditions p₁ p' = if released p .sda && released p .scl then [.start] else [] := by
  rcases hmid with hsame | hlow
  · rw [driveConditions_of_sda hsame, driveConditions_of_fall hsda hscl, hsame, hscl₁, List.nil_append]
  · rw [driveConditions_of_fall hlow hscl₁, driveConditions_of_sda (hsda.trans hlow.symm), List.append_nil]

/-- While nothing disturbs POLL, these steps lead the master in the world s from the outputs p to p', whatever its history
is, and make these conditions on the bus. -/
def PinRun (s : State) (ops : List MicroOp) (p p' : Pins) (conds : List Condition) : Prop :=
  ∀ log₀, ∃ log bits,
    QuietRun ops.length ops { s with pins := { p with log := log₀ } } []
      { s with pins := { p' with log := log ++ log₀ } } ∧
    Emits (released p .sda) (released p .scl) log (released p' .sda) (released p' .scl) bits conds

theorem PinRun.append {s : State} {a b : List MicroOp} {p p₁ p₂ : Pins} {conds conds' : List Condition}
    (h : PinRun s a p p₁ conds) (h' : PinRun s b p₁ p₂ conds') : PinRun s (a ++ b) p p₂ (conds ++ conds') := by
  intro log₀
  obtain ⟨log, bits, hrun, hlog⟩ := h log₀
  obtain ⟨log', bits', hrun', hlog'⟩ := h' (log ++ log₀)
  refine ⟨log' ++ log, bits ++ bits', ?_, hlog.trans hlog'⟩
  rw [List.append_assoc, List.length_append]
  exact hrun.seq hrun'

/-- A step that changes what the master drives, or what it would drive as an output. -/
theorem PinRun.drive {s : State} (hs : Quiet s) {op : MicroOp} {p p' : Pins}
    (h : ∀ log₀, microStep op { s with pins := { p with log := log₀ } } =
      .go [] { s with pins := logDrive { p with log := log₀ } { p' with log := log₀ } }) :
    PinRun s [op] p p' (driveConditions p p') := by
  intro log₀
  have hrun := QuietRun.micro (s := { s with pins := { p with log := log₀ } }) hs (h log₀)
  by_cases hsame : released p .sda = released p' .sda ∧ released p .scl = released p' .scl
  · have hpins : logDrive { p with log := log₀ } { p' with log := log₀ } = { p' with log := log₀ } := if_pos hsame
    rw [hpins] at hrun
    obtain ⟨hsda, hscl⟩ := hsame
    rw [driveConditions_of_sda hsda.symm, hsda, hscl]
    exact ⟨[], [], hrun, .nil _ _⟩
  · have hpins : logDrive { p with log := log₀ } { p' with log := log₀ } =
        { p' with log := [.drive (released p' .sda) (released p' .scl)] ++ log₀ } := if_neg hsame
    rw [hpins] at hrun
    refine ⟨_, _, hrun, fun _ => rfl, fun more => ?_⟩
    simp [driveConditions, busConditions]

/-- Such a step where SDA stays. -/
theorem PinRun.drive_still {s : State} (hs : Quiet s) {op : MicroOp} {p p' : Pins}
    (h : ∀ log₀, microStep op { s with pins := { p with log := log₀ } } =
      .go [] { s with pins := logDrive { p with log := log₀ } { p' with log := log₀ } })
    (hsda : released p' .sda = released p .sda) : PinRun s [op] p p' [] := by
  rw [← driveConditions_of_sda hsda]
  exact .drive hs h

theorem PinRun.delay {s : State} (hs : Quiet s) (d : DelayKind) (p : Pins) : PinRun s [.delay d] p p [] := by
  intro log₀
  exact ⟨[.delay (delayTicks s d)], [], .micro hs (by cases d <;> rfl), fun _ => rfl, fun _ => rfl⟩

/-- A released clock that no slave holds is not waited for (R273). -/
theorem PinRun.waitScl {s : State} (hs : SclFree s) {p : Pins} (hdir : p.sclDir = .input) :
    PinRun s [.waitScl] p p [] := by
  obtain ⟨hquiet, hlow⟩ := hs
  have hread : ∀ log₀, readLine { s with pins := { p with log := log₀ } } (.i2c .scl) = true :=
    fun log₀ => readLine_scl (s := { s with pins := { p with log := log₀ } }) hdir hlow
  intro log₀
  exact ⟨[], [], .micro hquiet (if_pos (hread log₀)), .nil _ _⟩

/-! ### The line primitives (R271, R273) -/

/-- Pulling SDA low is a START condition exactly where both lines were released (R116). -/
theorem PinRun.pull_sda {s : State} (hs : Quiet s) (p : Pins) :
    PinRun s (pullLow .sda) p { p with sdaDir := .output, sdaOut := false }
      (if released p .sda && released p .scl then [.start] else []) := by
  have hout : PinRun s [.setLine .sda false] p { p with sdaOut := false } _ := .drive hs fun _ => rfl
  have hdir : PinRun s [.setDirection .sda .output] { p with sdaOut := false }
    { p with sdaDir := .output, sdaOut := false } _ := .drive hs fun _ => rfl
  have hlevel : released { p with sdaOut := false } .sda = released p .sda ∨
      released { p with sdaOut := false } .sda = false := by
    cases h : p.sdaDir <;> simp [released, lineDir, lineOut, h]
  rw [← driveConditions_of_fall_trans (p' := { p with sdaDir := .output, sdaOut := false }) hlevel rfl rfl rfl]
  exact hout.append hdir

/-- SDA stays while SCL is pulled low. -/
theorem PinRun.pull_scl {s : State} (hs : Quiet s) (p : Pins) :
    PinRun s (pullLow .scl) p { p with sclDir := .output, sclOut := false } [] := by
  have hout : PinRun s [.setLine .scl false] p { p with sclOut := false } [] := .drive_still hs (fun _ => rfl) rfl
  have hdir : PinRun s [.setDirection .scl .output] { p with sclOut := false }
    { p with sclDir := .output, sclOut := false } [] := .drive_still hs (fun _ => rfl) rfl
  exact hout.append hdir

theorem PinRun.release_sda {s : State} (hs : Quiet s) (p : Pins) :
    PinRun s (release .sda) p { p with sdaDir := .input } (driveConditions p { p with sdaDir := .input }) :=
  .drive hs fun _ => rfl

/-- `scl_high`: SDA stays (R273). -/
theorem PinRun.scl_high {s : State} (hs : SclFree s) (p : Pins) :
    PinRun s sclHigh p { p with sclDir := .input } [] := by
  have hrelease : PinRun s (release .scl) p { p with sclDir := .input } [] := .drive_still hs.1 (fun _ => rfl) rfl
  exact hrelease.append ((delay hs.1 .half _).append (waitScl hs rfl))

/-! ### START, RSTART and STOP (R280 to R282) -/

theorem PinRun.start {s : State} (hs : Quiet s) (p : Pins) :
    PinRun s startOps p { p with sdaDir := .output, sclDir := .output, sdaOut := false, sclOut := false }
      (if released p .sda && released p .scl then [.start] else []) := by
  have hrun := (((pull_sda hs p).append (delay hs .half _)).append (pull_scl hs _)).append (delay hs .half _)
  simp only [List.append_nil] at hrun
  exact hrun

/-- A repeated start from SCL low: SDA and then SCL are released without a condition, and a start follows. -/
theorem PinRun.rstart {s : State} (hs : SclFree s) {p : Pins} (hdir : p.sclDir = .output) (hout : p.sclOut = false) :
    PinRun s rstartOps p { p with sdaDir := .output, sclDir := .output, sdaOut := false, sclOut := false } [.start] := by
  have hscl : released p .scl = false := Pins.lines_scl_of_output hout hdir
  have hcheck : PinRun s [.rstartCheck] p p [] := fun _ => ⟨[], [], .micro hs.1 (if_pos hdir), .nil _ _⟩
  have hrelease := release_sda hs.1 p
  rw [driveConditions_of_scl hscl] at hrelease
  exact ((((hcheck.append hrelease).append (delay hs.1 .half _)).append (scl_high hs _)).append
    (delay hs.1 .half _)).append (start hs.1 _)

/-- SDA is low before SCL is released, and rises while SCL is high. -/
theorem PinRun.stop {s : State} (hs : SclFree s) (p : Pins) :
    PinRun s stopOps p { p with sdaDir := .input, sclDir := .input, sdaOut := false }
      (if released p .sda && released p .scl then [.start, .stop] else [.stop]) := by
  have hpull := (((pull_sda hs.1 p).append (delay hs.1 .half _)).append (scl_high hs _)).append (delay hs.1 .half _)
  have hrun := hpull.append ((release_sda hs.1 _).append (delay hs.1 .half _))
  have hconds : (if released p .sda && released p .scl then [.start, .stop] else [.stop] : List Condition) =
      (if released p .sda && released p .scl then [.start] else []) ++ [.stop] := by split <;> rfl
  rw [hconds]
  simp only [List.append_nil] at hrun
  exact hrun

/-- A command's steps on the outputs, as the whole instruction. -/
theorem PinRun.runInstr {s : State} {ops : List MicroOp} {p' : Pins} {conds : List Condition}
    (h : PinRun s ops s.pins p' conds) (hn : ops.length ≤ opFuel) :
    ∃ log, runInstr ops s = .next { s with pins := { p' with log := log ++ s.pins.log } } ∧
      busConditions (released s.pins .sda) (released s.pins .scl) log.reverse = conds := by
  obtain ⟨log, bits, hrun, hlog⟩ := h s.pins.log
  exact ⟨log, hrun.runInstr hn, hlog.busConditions_eq⟩

/-- Settles O35: SDA falls before SCL, and only its fall can be a condition. -/
theorem i2cStart : Obligations.I2cStart := fun s _ hs => (PinRun.start hs s.pins).runInstr (by decide)

/-- Settles O36: the check passes or faults by SCL's direction. -/
theorem i2cRstart : Obligations.I2cRstart := by
  intro s d hs
  refine ⟨fun hdir hout => ?_, fun hdir => ?_⟩
  · have hscl : released s.pins .scl = false := Pins.lines_scl_of_output hout hdir
    have hrun := (PinRun.rstart hs hdir hout).runInstr (by decide)
    rwa [hscl] at hrun
  · have hcheck : microStep .rstartCheck s = .fault .i2cRstartUndefined := if_neg (by rw [hdir]; decide)
    obtain ⟨⟨-, -, hdue⟩, -⟩ := hs
    exact runOps_eq_fault (n := 511) hdue hcheck

/-- Settles O37: SDA may fall first, and its release comes behind that of SCL. -/
theorem i2cStop : Obligations.I2cStop := fun s _ hs => (PinRun.stop hs s.pins).runInstr (by decide)

/-- Settles O40: their meanings are the fault. -/
theorem reservedCommandsFault : Obligations.ReservedCommandsFault := by
  intro s d i hi
  simp only [List.mem_cons, List.not_mem_nil, or_false] at hi
  rcases hi with rfl | rfl | rfl | rfl <;> rfl

/-- Settles O41: the wait is POLL's next step, and it holds. -/
theorem clockStretchHolds : Obligations.ClockStretchHolds := by
  intro s rest ha hi hcont hlow
  have hsteps : pollSteps s = .waitScl :: rest := by rw [pollSteps, hcont]; rfl
  have hheld : ∀ ops, microStep .waitScl { s with poll.cont := ops } = .hold := fun ops =>
    if_neg (by simp [readLine, extLow, hlow])
  have hsame : { s with poll.cont := .waitScl :: rest } = s := by rw [← hcont]
  refine ⟨?_, by rw [tick_poll, hcont]⟩
  rw [step_plain ha hi hsteps rfl, pollMicro, hheld]
  exact congrArg (fun u => Host.Outcome.next (tick u)) hsame

end Sys2Proof.Machine

/-! The I2C sequencer's WRITE and READ, undisturbed in one step of the machine (R283, R284; O38, O39): from SCL held low the
lines are known with all that is put on the bus, and from a released SCL the first clock pulse comes to the same lines. -/

namespace Sys2Proof.Machine

/-! ### The first clock pulse from a released SCL -/

/-- The release of a released SDA changes nothing. -/
theorem LineRun.release_sda_released (b : Bridge) (e : Env) {q : Lines} (hsda : q.sda = true) :
    LineRun (release .sda) b e q q [] [] := by
  obtain ⟨sda, scl, ack, byte⟩ := q
  cases hsda
  exact ⟨[], .nil _ _, fun s _ _ => by cases scl <;> rfl⟩

/-- The release of a released SCL clocks nothing out. -/
theorem LineRun.release_scl_released (b : Bridge) (e : Env) {q : Lines} (hscl : q.scl = true) :
    LineRun (release .scl) b e q q [] [] := by
  obtain ⟨sda, scl, ack, byte⟩ := q
  cases hscl
  exact ⟨[], .nil _ _, fun s _ _ => by cases sda <;> rfl⟩

/-- `set_sda` with SCL released may be a bus condition (R116). -/
theorem LineRun.setSda_high (b : Bridge) (e : Env) {q : Lines} (hscl : q.scl = true) (v : Bool) :
    ∃ conds, LineRun (setSda v) b e q { q with sda := v } [] conds := by
  cases v with
  | false => exact ⟨_, pull_sda b e q⟩
  | true =>
    cases hsda : q.sda with
    | false => exact ⟨_, release_sda_high b e hscl hsda⟩
    | true =>
      have hsame : ({ q with sda := true } : Lines) = q := by rw [← hsda]
      rw [hsame]
      exact ⟨_, release_sda_released b e hsda⟩

/-- `scl_high` with SCL released clocks nothing out. -/
theorem LineRun.sclHigh_high {b : Bridge} {e : Env} {q : Lines} (he : e.NoStretch) (hscl : q.scl = true) :
    LineRun Machine.sclHigh b e q q [] [] :=
  (release_scl_released b e hscl).append ((delay b _ _ .half).append (waitScl b (he.iterate 2).1 hscl))

theorem LineRun.pulse_high {b : Bridge} {e : Env} {q : Lines} (he : e.NoStretch) (hscl : q.scl = true) :
    LineRun Machine.pulse b e q { q with scl := false } [] [] :=
  ((sclHigh_high (b := b) he hscl).append (delay b _ _ .full)).append (sclLow b _ hscl)

/-- The first bit of a WRITE ends with SCL low. -/
theorem LineRun.writeBit_high {b : Bridge} {e : Env} {q : Lines} (he : e.NoStretch) (hscl : q.scl = true) (v : Bool) :
    ∃ conds, LineRun (writeBitOps v) b e q { q with sda := v, scl := false } [] conds := by
  obtain ⟨conds, hsda⟩ := setSda_high b e hscl v
  exact ⟨_, (hsda.append (delay b _ _ .half)).append (pulse_high (he.iterate _) hscl)⟩

/-- The first bit of a READ ends with SCL low. -/
theorem LineRun.readBit_high {b : Bridge} {e : Env} {q : Lines} (he : e.NoStretch) (hscl : q.scl = true) (i : Nat) :
    LineRun (readBitOps i) b e q
      { q with scl := false, byte := withBit q.byte i (q.sda && !(Env.next^[3] e).sdaLow) } [] [] :=
  ((sclHigh_high (b := b) he hscl).append ((sampleBit b _ _ i).append (delay b _ _ .full))).append (sclLow b _ hscl)

/-! ### WRITE (R283) -/

/-- `i2c_write` from a released SCL. -/
theorem LineRun.write_high {b : Bridge} {e : Env} {q : Lines} (hbus : e.bus = []) (hlow : e.sclLow = false)
    (hscl : q.scl = true) (data : Byte) :
    ∃ bits conds, LineRun (writeOps data) b e q { q with sda := true, scl := false, ack := e.sdaLow } bits conds := by
  have hquiet : ∀ n, Env.next^[n] e = e := Env.iterate_of_quiet hbus
  have he : e.NoStretch := ⟨hlow, by rw [hbus]; nofun⟩
  obtain ⟨conds, hfirst⟩ := writeBit_high (b := b) he hscl (data.getLsbD 7)
  obtain ⟨sda, hbits⟩ := writeBits (b := b) data [6, 5, 4, 3, 2, 1, 0] (e := e)
    (q := { q with sda := data.getLsbD 7, scl := false }) he rfl
  rw [← hquiet (writeBitOps (data.getLsbD 7)).length] at hbits
  have hrun := ((((hfirst.append hbits).append (setSda_low b _ (q := { q with sda := sda, scl := false }) rfl true)).append
    (sclHigh (he.iterate _) rfl)).append ((sampleAck b _ _).append (delay b _ _ .full))).append (sclLow b _ rfl)
  simp only [hquiet, Bool.true_and, Bool.not_not] at hrun
  exact ⟨_, _, hrun⟩

/-- `i2c_write` ends with SDA released and SCL low; from SCL low it clocks out the byte and a released SDA. -/
theorem LineRun.write_any {b : Bridge} {e : Env} (hbus : e.bus = []) (hlow : e.sclLow = false) (q : Lines)
    (data : Byte) :
    ∃ bits conds, LineRun (writeOps data) b e q { q with sda := true, scl := false, ack := e.sdaLow } bits conds ∧
      (q.scl = false → bits = bitsMsbFirst data ++ [true] ∧ conds = []) := by
  cases hscl : q.scl with
  | false =>
    have hrun := write (b := b) hbus hlow hscl data
    rw [← hscl]
    exact ⟨_, _, hrun, fun _ => ⟨rfl, rfl⟩⟩
  | true =>
    obtain ⟨bits, conds, hrun⟩ := write_high (b := b) hbus hlow hscl data
    exact ⟨bits, conds, hrun, nofun⟩

/-- Settles O38: the lines after the byte do not depend on SCL before it, what is put on the bus does. -/
theorem i2cWrite : Obligations.I2cWrite := by
  intro s data ⟨⟨hhost, hbus, hdue⟩, hfree⟩ hhigh
  have hquiet : Quiet s := ⟨hhost, hbus, hdue⟩
  obtain ⟨bits, conds, hline, hlow⟩ := LineRun.write_any (b := s.bridge) hbus hfree s.pins.lines data
  obtain ⟨log, hrun, hlog⟩ := QuietRun.of_lines hquiet (Pins.eq_lines hhigh.1 hhigh.2) (writeOps_ofLine data) hline
  have hpins : ({ s.pins.lines with sda := true, scl := false, ack := s.env.sdaLow } : Lines).pins (log ++ s.pins.log) =
      { s.pins with sdaDir := .input, sclDir := .output, ack := s.env.sdaLow, log := log ++ s.pins.log } :=
    Pins.addressed_stopped hhigh.1 hhigh.2 s.env.sdaLow false _
  rw [hpins] at hrun
  refine ⟨log, hrun.runInstr ((writeOps_length data).trans (by decide)), fun hdir => ?_⟩
  have hscl : s.pins.lines.scl = false := Pins.lines_scl_of_output hhigh.2 hdir
  obtain ⟨rfl, rfl⟩ := hlow hscl
  rw [hscl] at hlog
  exact ⟨hlog.clockedBits_eq, hlog.busConditions_eq⟩

/-! ### READ (R284) -/

/-- `i2c_read` from a released SCL. -/
theorem LineRun.read_high {b : Bridge} {e : Env} {q : Lines} (he : e.NoStretch) (hscl : q.scl = true) (last : Bool) :
    ∃ bits conds, LineRun (readOps last) b e q
      { q with sda := last, scl := false, byte := sampled true (Env.next^[2] e) 0 msbFirst } bits conds := by
  obtain ⟨conds, hsda⟩ := setSda_high b e hscl true
  have hfirst := readBit_high (b := b) (q := { q with sda := true, byte := 0 }) (he.iterate 2) hscl 7
  have hbits := readBits (b := b) [6, 5, 4, 3, 2, 1, 0] (e := Env.next^[8] (Env.next^[2] e))
    (q := { q with sda := true, scl := false, byte := withBit 0 7 (true && !(Env.next^[3] (Env.next^[2] e)).sdaLow) })
    ((he.iterate 2).iterate 8) rfl
  have hbyte := (hsda.append (clearByte b (Env.next^[1] e) _)).append (hfirst.append hbits)
  exact ⟨_, _, (hbyte.append (setSda_low b _ rfl last)).append (pulse ((he.iterate _)) rfl)⟩

/-- `i2c_read` ends with SCL low; from SCL low it clocks out eight released bits and the acknowledge. -/
theorem LineRun.read_any {b : Bridge} {e : Env} (he : e.NoStretch) (q : Lines) (last : Bool) :
    ∃ bits conds, LineRun (readOps last) b e q
        { q with sda := last, scl := false, byte := sampled true (Env.next^[2] e) 0 msbFirst } bits conds ∧
      (q.scl = false → bits = List.replicate 8 true ++ [last] ∧ conds = []) := by
  cases hscl : q.scl with
  | false =>
    have hrun := read (b := b) he hscl last
    rw [← hscl]
    exact ⟨_, _, hrun, fun _ => ⟨rfl, rfl⟩⟩
  | true =>
    obtain ⟨bits, conds, hrun⟩ := read_high (b := b) he hscl last
    exact ⟨bits, conds, hrun, nofun⟩

/-- What the bus agent holds before a step on a line's direction does not matter, only its next choice does. -/
theorem LineRun.of_next_eq {l : I2cLine} {m : Dir} {ops : List MicroOp} {b : Bridge} {e e' : Env} {q q' : Lines}
    {bits : List Bool} {conds : List Condition} (hnext : e.next = e'.next)
    (h : LineRun (.setDirection l m :: ops) b e' q q' bits conds) :
    LineRun (.setDirection l m :: ops) b e q q' bits conds := by
  obtain ⟨log, hlog, hrun⟩ := h
  refine ⟨log, hlog, fun s log₀ hs => ?_⟩
  have hrun' := hrun s log₀ hs
  simp only [List.length_cons, Function.iterate_succ_apply, ← hnext] at hrun' ⊢
  cases l <;> simpa only [lineRun, microStep, done, setDirection, ← hnext] using hrun'

/-- The slave's script up to its last choice. -/
def slaveScriptInit (data : Byte) : List BusDrive :=
  List.replicate 2 ⟨false, false⟩ ++ (bitsMsbFirst data).dropLast.flatMap (fun v => List.replicate 8 ⟨!v, false⟩) ++
    List.replicate 7 ⟨!data.getLsbD 0, false⟩

theorem slaveScript_eq (data : Byte) : slaveScript data = slaveScriptInit data ++ [⟨!data.getLsbD 0, false⟩] := rfl

/-- A READ outlasts the slave's script, which ends with bit 0 (R274). -/
theorem Env.iterate_slaveScript {e : Env} {data : Byte} (h : e.bus = slaveScript data) (last : Bool) :
    Env.next^[(readOps last).length] e = { e with bus := [], sdaLow := !data.getLsbD 0, sclLow := false } := by
  have hscript : Env.next^[66] e = { e with bus := [], sdaLow := !data.getLsbD 0, sclLow := false } :=
    Env.iterate_next (h.trans (slaveScript_eq data))
  have hafter : ∀ n, Env.next^[n + 66] e = { e with bus := [], sdaLow := !data.getLsbD 0, sclLow := false } := fun n => by
    rw [Function.iterate_add_apply, hscript, Env.iterate_of_quiet rfl]
  cases last
  · exact hafter 9
  · exact hafter 8

/-- `i2c_read` of a byte that a slave sends: its script begins with the first atomic step, before the clock is first waited
for. -/
theorem LineRun.read_script {b : Bridge} {e : Env} {data : Byte} (h : e.bus = slaveScript data) (q : Lines)
    (last : Bool) :
    ∃ bits conds, LineRun (readOps last) b e q { q with sda := last, scl := false, byte := data } bits conds ∧
      (q.scl = false → bits = List.replicate 8 true ++ [last] ∧ conds = []) := by
  have hnext : e.next = (e.free (slaveScript data)).next := by
    simp only [Env.next, Env.free, h, slaveScript, List.replicate_succ, List.cons_append]
  obtain ⟨bits, conds, hrun, hlow⟩ := read_any (b := b) (e.free_noStretch (slaveScript_noStretch data)) q last
  rw [sampled_slaveScript (List.append_nil _).symm] at hrun
  exact ⟨bits, conds, of_next_eq hnext hrun, hlow⟩

/-- The master's state after a READ (R284). -/
theorem Pins.read_pins {p : Pins} (hhigh : p.sdaOut = false ∧ p.sclOut = false) (last : Bool) (data : Byte)
    (log : List BusEvent) :
    ({ p.lines with sda := last, scl := false, byte := data } : Lines).pins log =
      { p with sdaDir := if last then .input else .output, sclDir := .output, byte := data, log := log } := by
  simp [Lines.pins, Pins.lines, hhigh]

/-- Settles O39: the slave's bits are what the samples of the released SDA see, and its script ends within the command. -/
theorem i2cRead : Obligations.I2cRead := by
  intro s data d last hhost hdue hhigh hbus
  have hexec : exec (if last then .i2cReadNak d else .i2cReadAck d) s = runInstr (readOps last) s := by
    cases last <;> rfl
  obtain ⟨bits, conds, ⟨log, hlog, hline⟩, hlow⟩ := LineRun.read_script (b := s.bridge) hbus s.pins.lines last
  have hread := hline s s.pins.log rfl
  rw [← Pins.eq_lines hhigh.1 hhigh.2, Env.iterate_slaveScript hbus, Pins.read_pins hhigh] at hread
  have hrun := runOps_of_lineRun hhost hdue (readOps_ofLine last) (readOps_length_le last) hread s.poll.cont
  refine ⟨log, hexec.trans hrun, fun hdir => ?_⟩
  have hscl : s.pins.lines.scl = false := Pins.lines_scl_of_output hhigh.2 hdir
  obtain ⟨rfl, rfl⟩ := hlow hscl
  rw [hscl] at hlog
  exact ⟨hlog.clockedBits_eq, hlog.busConditions_eq⟩

end Sys2Proof.Machine

/-! The calibrator's waits, CAL_LOAD and boot (R300, R306, R332, R351; O45, O42, O9): the environment's moves are kept apart
from POLL's part of the state, which they do not look at. -/

namespace Sys2Proof.Machine

/-! ### The wait for a frame marker (R300) -/

/-- A step of POLL that waits is what POLL tries next again; only the environment moves (R13, R332). -/
theorem step_held {s : State} {op : MicroOp} {rest : List MicroOp} (ha : s.irq.active = false)
    (hi : interruptDue s = false) (hcont : s.poll.cont = op :: rest) (hop : op.plain = true)
    (hheld : microStep op { s with poll.cont := rest } = .hold) :
    step s = .next (tick s) ∧ (tick s).poll.cont = op :: rest := by
  have hsteps : pollSteps s = op :: rest := by rw [pollSteps, hcont]; rfl
  have hsame : { s with poll.cont := op :: rest } = s := by rw [← hcont]
  refine ⟨?_, by rw [tick_poll, hcont]⟩
  rw [step_plain ha hi hsteps hop, pollMicro, hheld]
  exact congrArg (fun u => Host.Outcome.next (tick u)) hsame

/-- Settles O45: with no marker both waits hold, and in a bus reset a keep-alive is no move. -/
theorem measurementWaits : Obligations.MeasurementWaits := by
  refine ⟨fun s op rest ha hi hop hcont hmarker => ?_, fun s err hreset => if_pos hreset⟩
  rcases hop with rfl | rfl
  · exact step_held ha hi hcont rfl (by simp only [microStep, hmarker])
  · exact step_held ha hi hcont rfl (by simp only [microStep, hmarker])

/-! ### POLL's part of the state and the world's -/

/-- The state t with the environment, and the latch that its moves set, as in u. -/
def State.inWorldOf (t u : State) : State := { t with irq.pending := u.irq.pending, env := u.env }

/-- The environment's moves do not look at the rest of the state, and leave it. -/
theorem tick_inWorldOf (t u : State) : tick (t.inWorldOf u) = t.inWorldOf (tick u) := by
  have hbus : ∀ u, busTick (t.inWorldOf u) = t.inWorldOf (busTick u) := fun u => by
    unfold busTick State.inWorldOf
    cases u.env.bus <;> rfl
  have hmove : ∀ e u, hostMove e (t.inWorldOf u) = t.inWorldOf (hostMove e u) := fun e u => by
    unfold hostMove State.inWorldOf
    cases e <;> cases hreset : u.env.dmLow <;> simp [hreset]
  have hhost : hostTick (t.inWorldOf u) = t.inWorldOf (hostTick u) := by
    unfold hostTick
    cases hscript : u.env.host with
    | nil => simp only [State.inWorldOf, hscript]
    | cons e rest =>
      simp only [State.inWorldOf, hscript]
      exact hmove e { u with env.host := rest }
  rw [tick, tick, hhost, hbus]

/-- An atomic step that neither looks at the environment nor changes it, with no interrupt due before it. -/
theorem QuietRun.in_world {op : MicroOp} {more : List MicroOp} {t t' u : State}
    (hdue : interruptDue (t.inWorldOf u) = false)
    (h : microStep op (t.inWorldOf u) = .go more (t'.inWorldOf u)) :
    QuietRun 1 [op] (t.inWorldOf u) more (t'.inWorldOf (tick u)) := fun fuel rest => by
  rw [Nat.add_comm, List.singleton_append, runOps_go hdue h, tick_inWorldOf]

/-! ### CAL_LOAD (R306) -/

/-- What CAL_LOAD leaves: the stored trim in the trim register, unless it is the sentinel. -/
def State.trimLoaded (s : State) : State :=
  { s with
    cal.oscTrim := if s.cal.nvTrim = 0xFF then s.cal.oscTrim else s.cal.nvTrim
    cal.done := s.cal.nvTrim != 0xFF }

theorem State.trimLoaded_of_unset {s : State} (h : s.cal.nvTrim = 0xFF) :
    s.trimLoaded = { s with cal.done := false } := by
  rw [trimLoaded, if_pos h, h]
  rfl

theorem State.trimLoaded_of_set {s : State} (h : s.cal.nvTrim ≠ 0xFF) :
    s.trimLoaded = { s with cal.oscTrim := s.cal.nvTrim, cal.done := true } := by
  rw [trimLoaded, if_neg h, bne_iff_ne.mpr h]

/-- CAL_LOAD while no interrupt becomes due: it takes two atomic steps at the sentinel and three otherwise. -/
theorem exec_calLoad {t u : State} (hdue : ∀ k, interruptDue (t.inWorldOf (iterate tick k u)) = false) :
    exec .calLoad (t.inWorldOf u) =
      .next (t.trimLoaded.inWorldOf (iterate tick (if t.cal.nvTrim = 0xFF then 2 else 3) u)) := by
  have hload : QuietRun 1 [.calLoad] (t.inWorldOf u) (calLoadOps t.cal.nvTrim) (t.inWorldOf (tick u)) :=
    .in_world (hdue 0) rfl
  by_cases hv : t.cal.nvTrim = 0xFF
  · have hops : calLoadOps t.cal.nvTrim = [.setCalDone false] := if_pos hv
    have hdone := QuietRun.in_world (op := .setCalDone false) (t' := { t with cal.done := false }) (hdue 1) rfl
    rw [hops] at hload
    rw [if_pos hv, State.trimLoaded_of_unset hv]
    exact (hload.trans hdone).runInstr (by decide)
  · have hops : calLoadOps t.cal.nvTrim = [.setTrim t.cal.nvTrim, .setCalDone true] := if_neg hv
    have htrim := QuietRun.in_world (op := .setTrim t.cal.nvTrim)
      (t' := { t with cal.oscTrim := t.cal.nvTrim }) (hdue 1) rfl
    have hdone := QuietRun.in_world (op := .setCalDone true) (t := { t with cal.oscTrim := t.cal.nvTrim })
      (t' := { t with cal.oscTrim := t.cal.nvTrim, cal.done := true }) (hdue 2) rfl
    rw [hops] at hload
    rw [if_neg hv, State.trimLoaded_of_set hv]
    exact (hload.trans (htrim.seq hdone)).runInstr (by decide)

/-- Settles O42: in a quiet state the environment's moves change nothing. -/
theorem calLoad : Obligations.CalLoad := by
  rintro s ⟨hhost, hbus, hdue⟩
  have hstill : ∀ k, iterate tick k s = s := fun k => by
    induction k with
    | zero => rfl
    | succ k ih => rw [iterate, tick_quiet s hhost hbus, ih]
  have hload := exec_calLoad (t := s) (u := s) fun k => by rw [hstill]; exact hdue
  rwa [hstill] at hload

/-! ### Boot (R351, R352) -/

theorem apply_iterate {α : Type} (f : α → α) (n : Nat) (x : α) : f (iterate f n x) = iterate f (n + 1) x := by
  induction n generalizing x with
  | zero => rfl
  | succ n ih => exact ih (f x)

/-- Boot behind its CAL_LOAD, before these steps. -/
def State.booting (s : State) (ops : List MicroOp) : State := { s.trimLoaded with poll.cont := ops }

/-- A step of boot behind its CAL_LOAD, with interrupts still masked. -/
theorem step_booting {s t' u : State} {op : MicroOp} {rest : List MicroOp} (ha : s.irq.active = false)
    (hmask : s.irq.enable = false) (hop : op.plain = true)
    (h : microStep op ((s.booting rest).inWorldOf u) = .go [] (t'.inWorldOf u)) (hrest : t'.poll.cont = rest) :
    step ((s.booting (op :: rest)).inWorldOf u) = .next (t'.inWorldOf (tick u)) := by
  have hdue : interruptDue ((s.booting (op :: rest)).inWorldOf u) = false := by
    simp [interruptDue, State.inWorldOf, State.booting, State.trimLoaded, hmask]
  have hcont : { t' with poll.cont := rest } = t' := by rw [← hrest]
  have hstep := step_plain (rest := rest) (s := (s.booting (op :: rest)).inWorldOf u) ha hdue rfl hop
  rw [hstep, pollMicro, show microStep op { (s.booting (op :: rest)).inWorldOf u with poll.cont := rest } = _ from h]
  refine (congrArg Host.Outcome.next (tick_inWorldOf { t' with poll.cont := rest } u)).trans ?_
  rw [hcont]

/-- The first three steps of boot, with interrupts masked up to the last of them. -/
theorem steps_boot {s : State} (hcont : s.poll.cont = []) (hphase : s.poll.phase = .boot) (ha : s.irq.active = false)
    (hmask : s.irq.enable = false) :
    steps 3 s = .next ({ s.booting [.goto .s1] with irq.enable := true }.inWorldOf
      (iterate tick (if s.cal.nvTrim = 0xFF then 4 else 5) s)) := by
  have hdue : ∀ u, interruptDue (s.inWorldOf u) = false := fun u => by simp [interruptDue, State.inWorldOf, hmask]
  have hsteps : pollSteps s = .calCmd 2 :: [.attach, .intUnmask, .goto .s1] := by
    rw [pollSteps, hcont, hphase]; rfl
  have hload := (step_calCommand ha (hdue s) hsteps rfl).trans
    (exec_calLoad (t := { s with poll.cont := [.attach, .intUnmask, .goto .s1] }) (u := s) fun _ => hdue _)
  have hattach : ∀ u, step ((s.booting [.attach, .intUnmask, .goto .s1]).inWorldOf u) =
      .next ((s.booting [.intUnmask, .goto .s1]).inWorldOf (tick u)) := fun u => step_booting ha hmask rfl rfl rfl
  have hunmask : ∀ u, step ((s.booting [.intUnmask, .goto .s1]).inWorldOf u) =
      .next ({ s.booting [.goto .s1] with irq.enable := true }.inWorldOf (tick u)) := fun u =>
    step_booting ha hmask rfl rfl rfl
  refine (steps_succ hload).trans ((steps_succ (hattach _)).trans ((steps_succ (hunmask _)).trans ?_))
  rw [apply_iterate tick, apply_iterate tick]
  by_cases hv : s.cal.nvTrim = 0xFF
  · rw [if_pos hv, if_pos hv]; rfl
  · rw [if_neg hv, if_neg hv]; rfl

/-- Settles O9: the loaded state goes to S1, unless an edge is latched by then. -/
theorem bootSequence : Obligations.BootSequence := by
  intro v serial e s moved t
  have hboot : steps 3 s = .next { t with poll.cont := [.goto .s1] } := steps_boot rfl rfl rfl rfl
  refine ⟨hboot, (steps_add (m := 1) hboot).trans ?_⟩
  cases hlatch : moved.irq.pending with
  | true =>
    have hdue : interruptDue { t with poll.cont := [.goto .s1] } = true := by
      simp only [interruptDue, t, hlatch]; rfl
    simp only [steps, step_interrupt_due hdue]
    rfl
  | false =>
    have hdue : interruptDue { t with poll.cont := [.goto .s1] } = false := by
      simp only [interruptDue, t, hlatch]; rfl
    simp only [steps, step_plain (s := { t with poll.cont := [.goto .s1] }) rfl hdue rfl rfl, pollMicro]
    rfl

end Sys2Proof.Machine

/-! CAL_RUN (R302 to R305, R307; O43, O44): the run under a host that sends two frame markers for each measurement, and what
the two searches find where the counts do not fall. -/

namespace Sys2Proof.Machine

/-! ### The atomic steps under the host's script -/

/-- A calibration under way: interrupts are masked, the bus agent stands still, and no bus reset is held. -/
structure Calibrating (s : State) : Prop where
  masked  : s.irq.enable = false
  bus     : s.env.bus = []
  noReset : s.env.dmLow = false

/-- With interrupts masked none is due before an atomic step, and the environment moves after it. -/
theorem QuietRun.masked {op : MicroOp} {more : List MicroOp} {s t u : State} (hs : s.irq.enable = false)
    (h : microStep op s = .go more t) (hmove : tick t = u) : QuietRun 1 [op] s more u := fun fuel rest => by
  rw [Nat.add_comm, List.singleton_append, runOps_go (by simp [interruptDue, hs]) h, hmove]

/-- Where the bus agent stands still, the environment's move is the host's. -/
theorem tick_eq_hostMove {s t : State} {e : HostEvent} {rest : List HostEvent} (h : s.env.host = e :: rest)
    (hmove : hostMove e { s with env.host := rest } = t) (hbus : t.env.bus = []) : tick s = t := by
  rw [tick, hostTick, h]
  simp only [hmove]
  rw [busTick, hbus]

theorem tick_idle {s : State} {rest : List HostEvent} (hbus : s.env.bus = []) (h : s.env.host = .idle :: rest) :
    tick s = { s with env.host := rest } := tick_eq_hostMove h rfl hbus

theorem tick_keepAlive {s : State} {err : Half} {rest : List HostEvent} (hs : Calibrating s)
    (h : s.env.host = .keepAlive err :: rest) :
    tick s = { s with irq.pending := true, env := { s.env with host := rest, marker := some err } } :=
  tick_eq_hostMove h (if_neg (by simp [hs.noReset])) hs.bus

/-- The end of a bus reset, held or not. -/
theorem tick_resetEnd {s : State} {rest : List HostEvent} (hbus : s.env.bus = []) (h : s.env.host = .resetEnd :: rest) :
    tick s = { s with
      irq.pending := s.env.dmLow || s.irq.pending, env := { s.env with host := rest, dmLow := false } } := by
  refine tick_eq_hostMove h ?_ hbus
  cases hreset : s.env.dmLow
  · exact (if_neg (by simp [hreset])).trans (by simp [hreset])
  · exact if_pos hreset

/-- An atomic step during which the host idles. -/
theorem QuietRun.idle {op : MicroOp} {more : List MicroOp} {s t : State} {rest : List HostEvent} (hs : Calibrating s)
    (hhost : s.env.host = .idle :: rest) (h : microStep op s = .go more t) :
    QuietRun 1 [op] s more { t with env.host := rest } := by
  obtain ⟨-, -, henv, -⟩ := microStep_frame h
  exact masked hs.masked h (tick_idle (by rw [henv]; exact hs.bus) (by rw [henv]; exact hhost))

/-! ### A measurement (R300) -/

/-- s with a measurement behind it and the calibrator in c, the host having these moves left: it has sent frame markers,
which the measurement has taken. -/
def State.counted (s : State) (c : Cal) (rest : List HostEvent) : State :=
  { s with cal := c, irq.pending := true, env := { s.env with host := rest, marker := none } }

theorem Calibrating.counted {s : State} (hs : Calibrating s) (c : Cal) (rest : List HostEvent) :
    Calibrating (s.counted c rest) := ⟨hs.masked, hs.bus, hs.noReset⟩

/-- Two frame markers, one to open the measurement and one to end it, give the count of the trim that is set. -/
theorem QuietRun.measure {s : State} (hs : Calibrating s) (M : Byte → Half) {rest : List HostEvent}
    (hhost : s.env.host = measureScript M s.cal.oscTrim ++ rest) :
    QuietRun 3 measureOps s [] (s.counted { s.cal with count := M s.cal.oscTrim } rest) := by
  have hcount : Config.frameCount s.cal.oscTrim + (M s.cal.oscTrim - Config.frameCount s.cal.oscTrim) =
      M s.cal.oscTrim := by rw [add_comm, sub_add_cancel]
  have hstart := masked (op := .measureStart) hs.masked rfl (tick_keepAlive (s := { s with env.marker := none })
    ⟨hs.masked, hs.bus, hs.noReset⟩ hhost)
  have hopen := masked (op := .measureOpen) (s := { s with
      irq.pending := true
      env := { s.env with
        host := .keepAlive (M s.cal.oscTrim - Config.frameCount s.cal.oscTrim) :: .idle :: rest
        marker := some 0 } }) hs.masked rfl (tick_keepAlive ⟨hs.masked, hs.bus, hs.noReset⟩ rfl)
  have hend := idle (op := .measureEnd) (s := { s with
      irq.pending := true
      env := { s.env with
        host := .idle :: rest
        marker := some (M s.cal.oscTrim - Config.frameCount s.cal.oscTrim) } })
    ⟨hs.masked, hs.bus, hs.noReset⟩ rfl rfl
  have hrun := hstart.seq (hopen.seq hend)
  simp only [measured, hcount] at hrun
  exact hrun

/-! ### The binary search (R302, R303) -/

/-- One step of the binary search. -/
def searchOps (step : Byte) : List MicroOp := [.setCalStep step, .calTry] ++ measureOps ++ [.calKeep]

theorem calRunOps_eq : calRunOps = [.calStart] ++ searchSteps.flatMap searchOps ++ [.calNeighbours] := rfl

/-- The calibrator after a measurement of counts M at trim t. -/
def Cal.measuredAt (M : Byte → Half) (c : Cal) (t : Byte) : Cal := { c with oscTrim := t, count := M t }

/-- The calibrator after one step of the binary search on counts M. -/
def Cal.searched (M : Byte → Half) (c : Cal) (step : Byte) : Cal :=
  { c.measuredAt M (c.trial + step) with trial := searchStep M c.trial step, step := step }

theorem calKeep_eq (s : State) : calKeep s = { s with
    cal.trial := if s.cal.count.toNat < Config.frameTarget.toNat then s.cal.trial + s.cal.step else s.cal.trial } := by
  unfold calKeep
  split <;> rfl

theorem QuietRun.search_step {s : State} (hs : Calibrating s) (M : Byte → Half) {step : Byte} {rest : List HostEvent}
    (hhost : s.env.host = .idle :: .idle :: (measureScript M (s.cal.trial + step) ++ .idle :: rest)) :
    QuietRun 6 (searchOps step) s [] (s.counted (s.cal.searched M step) rest) := by
  have hset := idle (op := .setCalStep step) hs hhost rfl
  have htry := idle (op := .calTry) (s := { s with
      cal.step := step, env.host := .idle :: (measureScript M (s.cal.trial + step) ++ .idle :: rest) })
    ⟨hs.masked, hs.bus, hs.noReset⟩ rfl rfl
  have hmeasure := measure (s := { s with
      cal.step := step, cal.oscTrim := s.cal.trial + step
      env.host := measureScript M (s.cal.trial + step) ++ .idle :: rest })
    ⟨hs.masked, hs.bus, hs.noReset⟩ M rfl
  have hkeep := idle (op := .calKeep)
    (hs.counted { s.cal.measuredAt M (s.cal.trial + step) with step := step } (.idle :: rest)) rfl rfl
  rw [calKeep_eq] at hkeep
  exact (hset.seq htry).seq (hmeasure.seq hkeep)

/-- The steps of a binary search, one after the other. -/
theorem QuietRun.search (M : Byte → Half) (rest : List HostEvent) : ∀ (steps : List Byte) (step : Byte) {s : State},
    Calibrating s → s.env.host = searchScript M s.cal.trial (step :: steps) ++ rest →
    ∃ trim count,
      QuietRun (6 * (steps.length + 1)) ((step :: steps).flatMap searchOps) s []
        (s.counted
          { s.cal with
            oscTrim := trim, trial := (step :: steps).foldl (searchStep M) s.cal.trial
            step := steps.getLastD step, count := count }
          rest)
  | [], step, s, hs, hhost => ⟨_, _, search_step hs M hhost⟩
  | next :: steps, step, s, hs, hhost => by
    have hfirst := search_step hs M (rest := searchScript M (searchStep M s.cal.trial step) (next :: steps) ++ rest) hhost
    obtain ⟨trim, count, hrest⟩ := search M rest steps next (hs.counted (s.cal.searched M step)
      (searchScript M (searchStep M s.cal.trial step) (next :: steps) ++ rest)) rfl
    have hrun := hfirst.seq hrest
    rw [Nat.add_comm, ← List.getLastD_cons] at hrun
    exact ⟨trim, count, hrun⟩

/-! ### The neighbourhood search (R304) -/

/-- A candidate of the neighbourhood search. -/
def candidateOps (t : Byte) : List MicroOp := [.setTrim t] ++ measureOps ++ [.calCompare t]

theorem calNeighbourOps_eq (trial : Byte) :
    calNeighbourOps trial =
      (calCandidates trial).flatMap (fun t => candidateOps (BitVec.ofNat 8 t)) ++ [.trimBest, .nvBest, .setCalDone true] :=
  rfl

theorem deviation_eq (m : Half) : deviation m = countDeviation m := by
  unfold deviation countDeviation
  omega

theorem neighbourScript_cons (M : Byte → Half) (best : Option Nat) (t : Nat) (ts : List Nat) :
    neighbourScript M best (t :: ts) =
      .idle :: (measureScript M (BitVec.ofNat 8 t) ++
        .idle :: if improves best (countDeviation (M (BitVec.ofNat 8 t))) then
          .idle :: .idle :: neighbourScript M (some (countDeviation (M (BitVec.ofNat 8 t)))) ts
        else neighbourScript M best ts) := by
  cases best with
  | none => rfl
  | some b =>
    by_cases hlt : countDeviation (M (BitVec.ofNat 8 t)) < b <;> simp [neighbourScript, improves, hlt]

/-- The calibrator with the deviation of its best candidate known. -/
def Cal.judged (M : Byte → Half) (c : Cal) (trim : Byte) (count : Half) (best : Byte) : Cal :=
  { c with oscTrim := trim, count := count, best := best, bestDev := some (countDeviation (M best)) }

/-- The calibrator after a candidate. -/
def Cal.compared (M : Byte → Half) (c : Cal) (t : Byte) : Cal :=
  if improves c.bestDev (countDeviation (M t)) then c.judged M t (M t) t else c.measuredAt M t

/-- A candidate up to its comparison with the best so far. -/
theorem QuietRun.candidate_measured {s : State} (hs : Calibrating s) (M : Byte → Half) {t : Byte} {rest : List HostEvent}
    (hhost : s.env.host = .idle :: (measureScript M t ++ .idle :: rest)) :
    QuietRun 5 (candidateOps t) s
      (if improves s.cal.bestDev (countDeviation (M t)) then [.setBest t, .setBestDev (countDeviation (M t))] else [])
      (s.counted (s.cal.measuredAt M t) rest) := by
  have hset := idle (op := .setTrim t) hs hhost rfl
  have hmeasure := measure (s := { s with cal.oscTrim := t, env.host := measureScript M t ++ .idle :: rest })
    ⟨hs.masked, hs.bus, hs.noReset⟩ M rfl
  have hcompare := idle (op := .calCompare t) (hs.counted (s.cal.measuredAt M t) (.idle :: rest)) rfl rfl
  rw [calCompareOps, deviation_eq] at hcompare
  exact hset.seq (hmeasure.seq hcompare)

/-- A candidate that becomes the best takes two more steps. -/
theorem QuietRun.candidate_improves {s : State} (hs : Calibrating s) (M : Byte → Half) {t : Byte} {rest : List HostEvent}
    (hbest : improves s.cal.bestDev (countDeviation (M t)) = true)
    (hhost : s.env.host = .idle :: (measureScript M t ++ .idle :: .idle :: .idle :: rest)) :
    QuietRun 7 (candidateOps t) s [] (s.counted (s.cal.judged M t (M t) t) rest) := by
  have hmeasured := candidate_measured hs M hhost
  have hset := idle (op := .setBest t) (hs.counted (s.cal.measuredAt M t) (.idle :: .idle :: rest)) rfl rfl
  have hdev := idle (op := .setBestDev (countDeviation (M t)))
    (hs.counted { s.cal.measuredAt M t with best := t } (.idle :: rest)) rfl rfl
  rw [if_pos hbest] at hmeasured
  exact hmeasured.trans (hset.seq hdev)

/-- A candidate under the host's script for it and those behind it. -/
theorem QuietRun.candidate {s : State} (hs : Calibrating s) (M : Byte → Half) {t : Nat} {ts : List Nat}
    {rest : List HostEvent} (hhost : s.env.host = neighbourScript M s.cal.bestDev (t :: ts) ++ rest) :
    ∃ n ≤ 7, QuietRun n (candidateOps (BitVec.ofNat 8 t)) s []
      (s.counted (s.cal.compared M (BitVec.ofNat 8 t))
        (neighbourScript M (s.cal.compared M (BitVec.ofNat 8 t)).bestDev ts ++ rest)) := by
  rw [neighbourScript_cons] at hhost
  by_cases hbest : improves s.cal.bestDev (countDeviation (M (BitVec.ofNat 8 t))) = true
  · rw [if_pos hbest] at hhost
    rw [Cal.compared, if_pos hbest]
    exact ⟨7, le_rfl, candidate_improves hs M hbest hhost⟩
  · rw [if_neg hbest] at hhost
    have hmeasured := candidate_measured hs M hhost
    rw [if_neg hbest] at hmeasured
    rw [Cal.compared, if_neg hbest]
    exact ⟨5, by decide, hmeasured⟩

/-- The candidates, one after the other. -/
theorem QuietRun.candidates (M : Byte → Half) (rest : List HostEvent) : ∀ (ts : List Nat) (t : Nat) {s : State},
    Calibrating s → s.env.host = neighbourScript M s.cal.bestDev (t :: ts) ++ rest →
    ∃ n ≤ 7 * (ts.length + 1),
      QuietRun n ((t :: ts).flatMap fun t => candidateOps (BitVec.ofNat 8 t)) s []
        (s.counted ((t :: ts).foldl (fun c t => c.compared M (BitVec.ofNat 8 t)) s.cal) rest)
  | [], t, s, hs, hhost => by
    obtain ⟨n, hn, hrun⟩ := candidate hs M hhost
    exact ⟨n, hn, hrun⟩
  | next :: ts, t, s, hs, hhost => by
    obtain ⟨n, hn, hfirst⟩ := candidate hs M hhost
    obtain ⟨m, hm, hrest⟩ := candidates M rest ts next (hs.counted (s.cal.compared M (BitVec.ofNat 8 t))
      (neighbourScript M (s.cal.compared M (BitVec.ofNat 8 t)).bestDev (next :: ts) ++ rest)) rfl
    exact ⟨n + m, by simp only [List.length_cons]; omega, hfirst.seq hrest⟩

/-- Behind a first candidate the best one known is the first with the smallest deviation. -/
theorem Cal.foldl_compared (M : Byte → Half) (c : Cal) : ∀ (ts : List Nat) (trim : Byte) (count : Half) (best : Byte),
    ∃ trim' count', ts.foldl (fun c t => c.compared M (BitVec.ofNat 8 t)) (c.judged M trim count best) =
      c.judged M trim' count' (firstBest M best ts)
  | [], trim, count, _ => ⟨trim, count, rfl⟩
  | t :: ts, trim, count, best => by
    rw [List.foldl_cons, firstBest, Cal.compared]
    by_cases hbest : countDeviation (M (BitVec.ofNat 8 t)) < countDeviation (M best)
    · rw [if_pos (show improves (c.judged M trim count best).bestDev _ = true from decide_eq_true hbest), if_pos hbest]
      exact foldl_compared M c ts _ _ _
    · rw [if_neg (show ¬ improves (c.judged M trim count best).bestDev _ = true by simpa [improves, judged] using hbest),
        if_neg hbest]
      exact foldl_compared M c ts _ _ _

theorem calCandidates_eq_cons (trial : Byte) : ∃ t ts, calCandidates trial = t :: ts ∧ ts.length ≤ 2 := by
  unfold calCandidates
  split <;> split <;> exact ⟨_, _, rfl, Nat.le_of_ble_eq_true rfl⟩

/-- The neighbourhood search, from no best candidate. -/
theorem QuietRun.neighbours {s : State} (hs : Calibrating s) (M : Byte → Half) {rest : List HostEvent}
    (hnone : s.cal.bestDev = none)
    (hhost : s.env.host = neighbourScript M none (calCandidates (searchTrial M)) ++ rest) :
    ∃ n ≤ 21, ∃ trim count,
      QuietRun n ((calCandidates (searchTrial M)).flatMap fun t => candidateOps (BitVec.ofNat 8 t)) s []
        (s.counted (s.cal.judged M trim count (calibrated M)) rest) := by
  obtain ⟨t, ts, hts, hlen⟩ := calCandidates_eq_cons (searchTrial M)
  rw [hts, ← hnone] at hhost
  obtain ⟨n, hn, hrun⟩ := candidates M rest ts t hs hhost
  obtain ⟨trim, count, hbest⟩ :=
    Cal.foldl_compared M s.cal ts (BitVec.ofNat 8 t) (M (BitVec.ofNat 8 t)) (BitVec.ofNat 8 t)
  have hfirst : s.cal.compared M (BitVec.ofNat 8 t) =
      s.cal.judged M (BitVec.ofNat 8 t) (M (BitVec.ofNat 8 t)) (BitVec.ofNat 8 t) := by
    rw [Cal.compared, hnone]; rfl
  have hwinner : calibrated M = firstBest M (BitVec.ofNat 8 t) ts := by rw [calibrated, hts]
  rw [List.foldl_cons, hfirst, hbest, ← hwinner, ← hts] at hrun
  exact ⟨n, by omega, trim, count, hrun⟩

/-! ### The whole calibration (R302, R305) -/

/-- The winner goes to the trim register and to the store, and the calibration is done (R305). -/
theorem QuietRun.keep_winner {s : State} (hs : Calibrating s) {c : Cal} {rest : List HostEvent} :
    QuietRun 3 [.trimBest, .nvBest, .setCalDone true] (s.counted c (.idle :: .idle :: .idle :: rest)) []
      (s.counted { c with oscTrim := c.best, nvTrim := c.best, done := true } rest) := by
  have htrim := idle (op := .trimBest) (hs.counted c (.idle :: .idle :: .idle :: rest)) rfl rfl
  have hstore := idle (op := .nvBest) (hs.counted { c with oscTrim := c.best } (.idle :: .idle :: rest)) rfl rfl
  have hdone := idle (op := .setCalDone true)
    (hs.counted { c with oscTrim := c.best, nvTrim := c.best } (.idle :: rest)) rfl rfl
  exact htrim.seq (hstore.seq hdone)

/-- s behind the first step of CAL_RUN: the trial value is 0, and the host has ended the bus reset. -/
def State.calStarted (s : State) (rest : List HostEvent) : State :=
  { s with
    cal.trial := 0, irq.pending := s.env.dmLow || s.irq.pending, env := { s.env with host := rest, dmLow := false } }

theorem QuietRun.cal_start {s : State} (hmask : s.irq.enable = false) (hbus : s.env.bus = []) {rest : List HostEvent}
    (hhost : s.env.host = .resetEnd :: rest) : QuietRun 1 [.calStart] s [] (s.calStarted rest) :=
  .masked hmask rfl (tick_resetEnd (s := { s with cal.trial := 0 }) hbus hhost)

/-- The calibrator after the binary search on counts M. -/
def Cal.searchDone (M : Byte → Half) (c : Cal) (trim : Byte) (count : Half) : Cal :=
  { c with oscTrim := trim, trial := searchTrial M, step := 1, count := count }

/-- The host's moves from the end of the binary search on. -/
def finishScript (M : Byte → Half) (rest : List HostEvent) : List HostEvent :=
  .idle :: (neighbourScript M none (calCandidates (searchTrial M)) ++ .idle :: .idle :: .idle :: rest)

theorem calibrationScript_append (M : Byte → Half) (rest : List HostEvent) :
    calibrationScript M ++ rest = .resetEnd :: (searchScript M 0 searchSteps ++ finishScript M rest) := by
  simp [calibrationScript, finishScript]

/-- From the end of the binary search on: the neighbourhood search and the result. -/
theorem QuietRun.cal_finish {s : State} (hs : Calibrating s) (M : Byte → Half) {c : Cal}
    (htrial : c.trial = searchTrial M) (rest : List HostEvent) :
    ∃ n ≤ 25, ∃ trim count, QuietRun n [.calNeighbours] (s.counted c (finishScript M rest)) []
      (s.counted { c.judged M trim count (calibrated M) with
        oscTrim := calibrated M, nvTrim := calibrated M, done := true } rest) := by
  have hturn := idle (op := .calNeighbours) (hs.counted c (finishScript M rest)) rfl rfl
  obtain ⟨n, hn, trim, count, hneighbours⟩ := neighbours (hs.counted { c with bestDev := none }
    (neighbourScript M none (calCandidates (searchTrial M)) ++ .idle :: .idle :: .idle :: rest)) M rfl rfl
  have hkeep := keep_winner hs (c := c.judged M trim count (calibrated M)) (rest := rest)
  rw [show (s.counted c _).cal.trial = searchTrial M from htrial, calNeighbourOps_eq] at hturn
  exact ⟨1 + (n + 3), by omega, trim, count, hturn.trans (hneighbours.seq hkeep)⟩

/-- Settles O43: the end of the bus reset, the binary search, the neighbourhood search and the result. -/
theorem calRunResult : Obligations.CalRunResult := by
  intro s M rest hmask hbus hhost
  rw [calibrationScript_append] at hhost
  have hcal : ∀ host, Calibrating (s.calStarted host) := fun _ => ⟨hmask, hbus, rfl⟩
  have hstart := QuietRun.cal_start hmask hbus hhost
  obtain ⟨trim, count, hsearch⟩ := QuietRun.search M (finishScript M rest) searchSteps.tail 128
    (hcal (searchScript M 0 searchSteps ++ finishScript M rest)) rfl
  obtain ⟨n, hn, trim', count', hfinish⟩ :=
    QuietRun.cal_finish (hcal (searchScript M 0 searchSteps ++ finishScript M rest)) M
      (c := s.cal.searchDone M trim count) rfl rest
  have hrun := (hstart.seq hsearch).seq hfinish
  rw [show 128 :: searchSteps.tail = searchSteps from rfl, ← calRunOps_eq] at hrun
  exact ⟨count', hrun.runInstr (by simp only [searchSteps, List.tail, List.length, opFuel]; omega)⟩

/-! ### Convergence (R307) -/

/-- Where the binary search stands, the steps to come having the sum `reach`: the trial value is 0 or too slow, and every
trim that the search can no longer reach is fast enough. -/
structure SearchBound (M : Byte → Half) (trial : Byte) (reach : Nat) : Prop where
  fits : trial.toNat + reach ≤ 255
  slow : trial = 0 ∨ (M trial).toNat < Config.frameTarget.toNat
  fast : ∀ t : Byte, trial.toNat + reach < t.toNat → Config.frameTarget.toNat ≤ (M t).toNat

/-- Counts that do not fall as the trim rises (R307). -/
def Rising (M : Byte → Half) : Prop := ∀ a b : Byte, a.toNat ≤ b.toNat → (M a).toNat ≤ (M b).toNat

/-- A step one above the sum of those behind it keeps the search's bounds. -/
theorem SearchBound.step {M : Byte → Half} (hM : Rising M) {trial step : Byte} {reach reach' : Nat}
    (h : SearchBound M trial reach) (hstep : step.toNat = reach' + 1) (hreach : reach = reach' + 1 + reach') :
    SearchBound M (searchStep M trial step) reach' := by
  obtain ⟨hfits, hslow, hfast⟩ := h
  have hsum : (trial + step).toNat = trial.toNat + step.toNat := BitVec.toNat_add_of_lt (by omega)
  unfold searchStep
  split
  · next hkeep => exact ⟨by omega, .inr hkeep, fun t ht => hfast t (by omega)⟩
  · next hdrop =>
    refine ⟨by omega, hslow, fun t ht => ?_⟩
    have hcount : (M (trial + step)).toNat ≤ (M t).toNat := hM _ _ (by omega)
    omega

/-- The binary search ends at the last trim that is too slow, or at 0 where there is none (R303). -/
theorem searchBound_searchTrial {M : Byte → Half} (hM : Rising M) : SearchBound M (searchTrial M) 0 := by
  have hstart : SearchBound M 0 255 :=
    ⟨by decide, .inl rfl, fun t ht => absurd t.isLt (Nat.not_lt.mpr (Nat.succ_le_of_lt (by simpa using ht)))⟩
  have hhigh := (((hstart.step hM (step := 128) (reach' := 127) rfl rfl).step hM (step := 64) (reach' := 63) rfl rfl).step
    hM (step := 32) (reach' := 31) rfl rfl).step hM (step := 16) (reach' := 15) rfl rfl
  exact (((hhigh.step hM (step := 8) (reach' := 7) rfl rfl).step hM (step := 4) (reach' := 3) rfl rfl).step
    hM (step := 2) (reach' := 1) rfl rfl).step hM (step := 1) (reach' := 0) rfl rfl

/-- The first of the candidates with the smallest deviation has a deviation no larger than any of them. -/
theorem countDeviation_firstBest_le (M : Byte → Half) : ∀ (ts : List Nat) (best : Byte),
    countDeviation (M (firstBest M best ts)) ≤ countDeviation (M best) ∧
      ∀ t ∈ ts, countDeviation (M (firstBest M best ts)) ≤ countDeviation (M (BitVec.ofNat 8 t))
  | [], best => ⟨le_rfl, by simp⟩
  | t :: ts, best => by
    rw [firstBest]
    split
    · next hwins =>
      obtain ⟨hfirst, hrest⟩ := countDeviation_firstBest_le M ts (BitVec.ofNat 8 t)
      exact ⟨hfirst.trans hwins.le, List.forall_mem_cons.mpr ⟨hfirst, hrest⟩⟩
    · next hloses =>
      obtain ⟨hfirst, hrest⟩ := countDeviation_firstBest_le M ts best
      exact ⟨hfirst, List.forall_mem_cons.mpr ⟨hfirst.trans (not_lt.mp hloses), hrest⟩⟩

theorem countDeviation_calibrated_le (M : Byte → Half) {t : Nat} (ht : t ∈ calCandidates (searchTrial M)) :
    countDeviation (M (calibrated M)) ≤ countDeviation (M (BitVec.ofNat 8 t)) := by
  obtain ⟨first, ts, hts, -⟩ := calCandidates_eq_cons (searchTrial M)
  have hwinner : calibrated M = firstBest M (BitVec.ofNat 8 first) ts := by rw [calibrated, hts]
  obtain ⟨hfirst, hrest⟩ := countDeviation_firstBest_le M ts (BitVec.ofNat 8 first)
  rw [hwinner]
  rcases List.mem_cons.mp (hts ▸ ht) with rfl | ht
  · exact hfirst
  · exact hrest t ht

/-- The winner is the best of all trims: up to the trial value they are slower than it, and above it they are no slower than
the next one, which is fast enough. -/
theorem countDeviation_calibrated_min {M : Byte → Half} (hM : Rising M) (v : Byte) :
    countDeviation (M (calibrated M)) ≤ countDeviation (M v) := by
  obtain ⟨-, hslow, hfast⟩ := searchBound_searchTrial hM
  have hv := v.isLt
  by_cases hle : v.toNat ≤ (searchTrial M).toNat
  · have htrial : countDeviation (M (calibrated M)) ≤ countDeviation (M (searchTrial M)) := by
      have h := countDeviation_calibrated_le M (t := (searchTrial M).toNat) (by simp [calCandidates])
      rwa [BitVec.ofNat_toNat, BitVec.setWidth_eq] at h
    refine htrial.trans ?_
    rcases hslow with hzero | hslow
    · have hsame : v = searchTrial M := BitVec.eq_of_toNat_eq (by rw [hzero] at hle ⊢; exact Nat.le_zero.mp hle)
      rw [hsame]
    · have hcount := hM v (searchTrial M) hle
      unfold countDeviation
      omega
  · have hnext : (BitVec.ofNat 8 ((searchTrial M).toNat + 1)).toNat = (searchTrial M).toNat + 1 :=
      Nat.mod_eq_of_lt (by omega)
    have hmem : (searchTrial M).toNat + 1 ∈ calCandidates (searchTrial M) := by
      simp [calCandidates, show (searchTrial M).toNat ≠ 255 by omega]
    refine (countDeviation_calibrated_le M hmem).trans ?_
    have htarget := hfast (BitVec.ofNat 8 ((searchTrial M).toNat + 1)) (by omega)
    have hcount := hM (BitVec.ofNat 8 ((searchTrial M).toNat + 1)) v (by omega)
    unfold countDeviation
    omega

/-- Settles O44: CAL_RUN leaves the winner, which is the best of all trims. -/
theorem calibrationConverges : Obligations.CalibrationConverges := by
  intro s M rest hmask hbus hhost hM
  obtain ⟨count, hrun⟩ := calRunResult s M rest hmask hbus hhost
  exact ⟨_, hrun, rfl, rfl, countDeviation_calibrated_min hM⟩

end Sys2Proof.Machine

/-! The interrupt's entry, its return with the next activation behind it (O12, O13), and what a step of the ISR leaves
alone (O15): the whole next state is known for each form a transaction takes, and the frame is put together from its
changes. -/

namespace Sys2Proof.Machine

/-! ### Entry and return (R322, R323) -/

/-- An edge is served where interrupts are enabled and the ISR does not run (R322). -/
theorem interruptDue_of {s : State} (hp : s.irq.pending = true) (he : s.irq.enable = true) (ha : s.irq.active = false) :
    interruptDue s = true := by simp [interruptDue, hp, he, ha]

/-- Settles O12: the interrupt is due. -/
theorem step_interruptEntry : Obligations.InterruptEntry :=
  fun _ hp he ha => step_interrupt_due (interruptDue_of hp he ha)

/-- Settles O13: the environment never clears the latch, and leaves interrupts enabled and the ISR idle, so an edge that
is latched after the return is due at once. -/
theorem step_interruptReturn : Obligations.InterruptReturn := by
  intro s ha hr
  refine ⟨step_isr_return ha hr, tick_latched (interruptReturn s), fun hp => ?_⟩
  exact step_interrupt_due (interruptDue_of hp (tick_enable (interruptReturn s)) (tick_active (interruptReturn s)))

/-! ### What the ISR may change (R21, R25, R83, R142) -/

/-- What a step of the ISR may make of `s` before the environment moves: it changes only the parts the ISR owns, keeps the
active receive buffer, keeps the tags while POLL owns a packet, sends at most one packet, and leaves the latch. -/
structure IsrEffect (s v : State) : Prop where
  owned : v = { s with
    usb.rxBuf0 := v.usb.rxBuf0, usb.rxBuf1 := v.usb.rxBuf1, usb.rxSel := v.usb.rxSel, usb.rxLen := v.usb.rxLen
    usb.rxToken := v.usb.rxToken, usb.rxLastToggle := v.usb.rxLastToggle, usb.txLen := v.usb.txLen
    irq := v.irq, env.sent := v.env.sent, wire := v.wire }
  pending : v.irq.pending = s.irq.pending
  sends   : v.wire = s.wire ∧ v.env.sent = s.env.sent ∨
    ∃ p, v.env.sent = p :: s.env.sent ∧ v.wire = transmitted p s.wire
  buffer  : rxBuf v s.usb.rxSel = rxBuf s s.usb.rxSel
  tags    : s.usb.rxLen ≠ 0 →
    v.usb.rxSel = s.usb.rxSel ∧ v.usb.rxLen = s.usb.rxLen ∧ v.usb.rxToken = s.usb.rxToken ∧
      v.usb.rxLastToggle = s.usb.rxLastToggle
  txLen   : v.usb.txLen = s.usb.txLen ∨ v.usb.txLen = 0

theorem IsrEffect.refl (s : State) : IsrEffect s s :=
  ⟨rfl, rfl, .inl ⟨rfl, rfl⟩, rfl, fun _ => ⟨rfl, rfl, rfl, rfl⟩, .inl rfl⟩

/-- The ISR's own state is its to change, but for the latch (R322). -/
theorem IsrEffect.withIrq {s v : State} (h : IsrEffect s v) {q : Irq} (hq : q.pending = s.irq.pending) :
    IsrEffect s { v with irq := q } :=
  { h with
    owned := by rw [h.owned]
    pending := hq }

/-- The packets of the transaction that are left are the ISR's own state (R140). -/
theorem IsrEffect.of_rx {s v : State} {rx : List RxPacket} (h : IsrEffect { s with irq.rx := rx } v) : IsrEffect s v :=
  { h with }

/-- Bytes go into the buffer that is not active (R25). -/
theorem IsrEffect.stored (s : State) (d : List Byte) :
    IsrEffect s { s with
      usb.rxBuf0 := if s.usb.rxSel then inactiveAfter s d else s.usb.rxBuf0
      usb.rxBuf1 := if s.usb.rxSel then s.usb.rxBuf1 else inactiveAfter s d } :=
  { IsrEffect.refl s with
    owned := rfl
    buffer := by cases s.usb.rxSel <;> rfl }

/-- The tags change where `rx_len` is 0 (R83). -/
theorem IsrEffect.published {s v : State} (h : IsrEffect s v) (hfree : s.usb.rxLen = 0) (k : Bool) (n token : Byte)
    (toggle : Option Bool) :
    IsrEffect s { v with
      usb.rxSel := k, usb.rxLen := n, usb.rxToken := token, usb.rxLastToggle := toggle } :=
  { h with
    owned := by rw [h.owned]
    tags := fun hbusy => absurd hfree hbusy }

/-- `tx_len` is left or cleared (R148). -/
theorem IsrEffect.withTxLen {s v : State} (h : IsrEffect s v) {n : Byte} (hn : n = s.usb.txLen ∨ n = 0) :
    IsrEffect s { v with usb.txLen := n } :=
  { h with
    owned := by rw [h.owned]
    txLen := hn }

/-- One packet is sent where none was (R142). -/
theorem IsrEffect.sent {s v : State} (h : IsrEffect s v) (p : List Byte) :
    IsrEffect s { v with wire := transmitted p s.wire, env.sent := p :: s.env.sent } :=
  { h with
    owned := by rw [h.owned]
    sends := .inr ⟨p, rfl, rfl⟩ }

/-- A SETUP or OUT transaction: whatever its data packet comes to (R145 to R147). -/
theorem IsrEffect.isrSetupOut (token : Byte) (s : State) : IsrEffect s (isrSetupOut token s) := by
  cases hr : s.irq.rx with
  | nil => rw [isrSetupOut_nil token hr]; exact (IsrEffect.refl s).withIrq rfl
  | cons p rest =>
    cases hp : p.received with
    | none => rw [isrSetupOut_garbled token hr hp]; exact (IsrEffect.refl s).withIrq rfl
    | some d =>
      cases hd : dataOk d with
      | false => rw [isrSetupOut_bad token hr hp hd]; exact (IsrEffect.stored s d).withIrq rfl
      | true =>
        by_cases hlen : s.usb.rxLen = 0
        · cases hdup : dupDrop s token d with
          | true => rw [isrSetupOut_dropped hr hp hd hlen hdup]; exact ((IsrEffect.stored s d).sent [0xD2]).withIrq rfl
          | false =>
            rw [isrSetupOut_published hr hp hd hlen hdup]
            exact (((IsrEffect.stored s d).published hlen _ _ _ _).sent [0xD2]).withIrq rfl
        · rw [isrSetupOut_busy token hr hp hd hlen]; exact ((IsrEffect.stored s d).sent [0x5A]).withIrq rfl

/-- An IN token of the block's own starts an IN transaction (R148). -/
theorem exec_in_own (s : State) :
    exec (.inToken s.usb.address 0 (crc5 ((0 : BitVec 4) ++ s.usb.address))) s = .next (isrIn s) :=
  congrArg Host.Outcome.next (if_pos (tokenOk_own s))

/-- An IN transaction, whole as O22 gives it: NAK, or the packet that waits, whose acknowledge clears `tx_len` (R148). -/
theorem IsrEffect.isrIn (s : State) : IsrEffect s (isrIn s) := by
  rw [Host.Outcome.next.inj ((exec_in_own s).symm.trans (inServesPacket s))]
  split
  · exact ((IsrEffect.refl s).sent [0x5A]).withIrq rfl
  · exact (((IsrEffect.refl s).withTxLen (ite_eq_or_eq _ _ _).symm).sent _).withIrq rfl

/-- Every step of the ISR has the ISR's effect, and then the environment moves. -/
theorem step_isr_frame {s t : State} (ha : s.irq.active = true) (h : step s = .next t) :
    ∃ v, t = tick v ∧ IsrEffect s v := by
  rcases step_isr_cases ha h with rfl | rfl | ⟨p, rest, -, ⟨token, -, rfl⟩ | rfl⟩
  · exact ⟨_, rfl, (IsrEffect.refl s).withIrq rfl⟩
  · exact ⟨_, rfl, (IsrEffect.refl s).withIrq rfl⟩
  · exact ⟨_, rfl, (IsrEffect.isrSetupOut token _).of_rx⟩
  · exact ⟨_, rfl, (IsrEffect.isrIn _).of_rx⟩

/-- Settles O15: the ISR's effect, of which the environment's move changes no part of `usb`. -/
theorem isrFrame : Obligations.IsrFrame := by
  intro s t ha h
  obtain ⟨v, rfl, heff⟩ := step_isr_frame ha h
  obtain ⟨howned, hpending, hsends, hbuffer, htags, htx⟩ := heff
  rw [tick_usb]
  refine ⟨⟨v.usb, v.irq, v.wire, v.env.sent, ?_, ?_, hpending, hsends⟩, ?_, htags, htx⟩
  · exact congrArg tick (howned.trans (by rw [howned]))
  · rw [howned]
  · simpa only [rxBuf, tick_usb] using hbuffer

end Sys2Proof.Machine

/-! No instruction leaves a bit delay at 0 (O30), and the state after reset has the values of R350 (O8) and the
invariants that every step keeps (O10). -/

namespace Sys2Proof.Machine

/-! ### The delays (R38, R371) -/

/-- However far steps with operands in range run, and whatever the environment does meanwhile, the state changes only as
POLL may change it; what POLL was about to do before plays no part. -/
theorem runOps_effect {n : Nat} {ops : List MicroOp} {s t : State} (hops : ops.all MicroOp.ok = true)
    (h : runOps n ops s = .next t) : PollEffect s t := by
  obtain ⟨ops', u, ⟨-, heff⟩, rfl⟩ :=
    runOps_invariant (fun ops u => ops.all MicroOp.ok = true ∧ PollEffect s u)
      (fun op rest u more u' ⟨hall, heff⟩ _ hm => by
        obtain ⟨hop, hrest⟩ : op.ok = true ∧ rest.all MicroOp.ok = true := by simpa using hall
        exact ⟨all_ok_append (microStep_ok hop hm) hrest, (heff.trans (microStep_effect hop hm)).trans (.tick u')⟩)
      (fun op rest u ⟨hall, heff⟩ _ => ⟨hall, heff.trans (.tick u)⟩) n ops s t ⟨hops, .refl s⟩ h
  exact heff.trans (.withCont u _)

/-- An instruction that POLL runs does only what POLL may do. -/
theorem exec_poll_effect {i : Instr} {s t : State} (hp : (encode i).1 ≠ .usb) (h : exec i s = .next t) :
    PollEffect s t := by
  obtain ⟨ops, hops, hrun⟩ := exec_poll_next hp h
  exact runOps_effect (instrOps_ok hops) hrun

/-- A first packet of the ISR does only what the ISR may do (R143). -/
theorem exec_packet_effect {i : Instr} {s t : State} (hp : (encode i).1 = .usb) (h : exec i s = .next t) :
    IsrEffect s t := by
  rcases exec_packet_next hp h with rfl | ⟨token, -, rfl⟩ | rfl
  · exact (IsrEffect.refl s).withIrq rfl
  · exact .isrSetupOut token s
  · exact .isrIn s

/-- The bridge is POLL's (R21). -/
theorem IsrEffect.bridge {s v : State} (h : IsrEffect s v) : v.bridge = s.bridge := by rw [h.owned]

/-- Settles O30: a packet leaves the bridge as it was, and the steps of every other instruction write a delay only with
an operand that is not 0. -/
theorem delayFloor : Obligations.DelayFloor := by
  intro s t i hfull hhalf h
  by_cases hp : (encode i).1 = .usb
  · rw [(exec_packet_effect hp h).bridge]
    exact ⟨hfull, hhalf⟩
  · have heff := exec_poll_effect hp h
    exact ⟨heff.fullDelay hfull, heff.halfDelay hhalf⟩

/-! ### The state after reset (R350) -/

/-- A power cycle of the reset state changes nothing, since it keeps the non-volatile bytes (R71). -/
theorem powerCycle_reset : powerCycle State.reset = State.reset := rfl

/-- Settles O8: reset has what a power cycle leaves (O60), and its trim byte is the sentinel (R71). -/
theorem resetValues : Obligations.ResetValues := by
  obtain ⟨-, ⟨-, -, htrim, hdone⟩, husb, hbridge, hpins, hirq, hphase⟩ := powerCycleKeepsNv State.reset
  rw [powerCycle_reset] at htrim hdone husb hbridge hpins hirq hphase
  exact ⟨husb, hbridge, hpins, ⟨htrim, hdone, rfl⟩, hirq, hphase⟩

/-- DEFAULT_DELAY is at least 1, whatever was configured (R38). -/
theorem one_le_defaultDelay : 1 ≤ Config.defaultDelay.toNat := by
  have h : Config.defaultDelay.toNat = max 1 Config.defaultDelayRaw.toNat := atLeastOne_toNat Config.defaultDelayRaw
  rw [h]
  exact le_max_left _ _

/-- Reset has the invariant of a run: the delays by their constraints, no packet, no latch high, nothing pending. -/
theorem Inv.reset : Inv State.reset where
  ram := reset_ram_wf
  rxLen := rfl
  rxToken := fun hne => absurd rfl hne
  txLen := rfl
  fullDelay := one_le_defaultDelay
  halfDelay := by
    obtain ⟨-, ⟨-, -, -, -, -, -, -, -, hhalf⟩, -⟩ := resetValues
    rw [hhalf]
    exact le_max_left _ _
  neverHigh := ⟨rfl, rfl⟩
  released := ⟨rfl, rfl⟩
  masked := nofun
  pending := rfl

/-- Nothing is pending, so nothing claims `tx_buf` (R84). -/
theorem TxHandoff.reset : TxHandoff State.reset := ⟨fun _ => rfl, rfl⟩

/-- Nothing is pending, so no decrement is (R254). -/
theorem CounterOk.reset : CounterOk State.reset := ⟨Nat.zero_le _, rfl⟩

/-- Interrupts are disabled, but no step of the master is pending (R289). -/
theorem MasterUnmasked.reset : MasterUnmasked State.reset := ⟨fun _ _ => rfl, rfl⟩

/-- Settles O10: the base case of each of the four invariants. -/
theorem resetMeetsInv : Obligations.ResetMeetsInv :=
  ⟨Inv.reset, TxHandoff.reset, CounterOk.reset, MasterUnmasked.reset⟩

end Sys2Proof.Machine
